-- ==== Sys2Proof/Word.lean ====
section
/-! DEFINITION. The word types of PWMSEQ (spec/00_scope.md R5, R6): every value is an unsigned integer of a stated
width, bit 0 the least significant. -/

namespace Sys2Proof

/-- An 8-bit field: a device or channel index of a command word, a pin (`PIN_W = 8`), one serialised byte. -/
abbrev Byte := BitVec 8

/-- A 16-bit value: `DIV_W`, `DUTY_W` (R5). -/
abbrev Half := BitVec 16

/-- A 32-bit word: `CLK_W`, `CYC_W`, `HANDLE_W` and every command-port register (R5, R12). -/
abbrev Word := BitVec 32

/-- A 4-bit alternate-function selector (`AF_W = 4`, R5). -/
abbrev AltFn := BitVec 4

/-- A channel slot index `0 .. MAX_CH-1`, `MAX_CH = 4` (R5, R6). -/
abbrev ChIdx := Fin 4

end Sys2Proof
end

