-- ==== Sys2Proof/Syntax.lean ====
section
/-! DEFINITION. The commands of PWMSEQ: one constructor per row of spec/opcode_table.json (spec/30_encoding.md R64), with
the operands of its format (R62, R63); and the words of one issued command (R60). -/

namespace Sys2Proof

/-- One command with its operands (spec/30_encoding.md R64, R68). `dev` is `CMD[15:8]`, `ch` is `CMD[23:16]`. -/
inductive Instr where
  /-- INIT, format H (R131). -/
  | init (dev : Byte) (handle : Word)
  /-- SET_FREQUENCY, format F (R84). -/
  | setFrequency (dev : Byte) (freq : Word)
  /-- CONFIGURE_CHANNEL, format K (R134). -/
  | configureChannel (dev ch pin : Byte) (af : AltFn) (inverted : Bool)
      (cycleCount ccb cdata scb sdata : Word)
  /-- ENABLE_DUTY_CYCLE, format U (R137). -/
  | enableDutyCycle (dev ch : Byte) (duty : Half)
  /-- DISABLE, format C (R139). -/
  | disable (dev ch : Byte)
  /-- GET_CLOCK_FREQUENCY, format N (R120). -/
  | getClockFrequency (dev : Byte)
  /-- GET_PERIOD_TICKS, format N (R121). -/
  | getPeriodTicks (dev : Byte)
  /-- GET_RESOLUTION_BITS, format N (R122). -/
  | getResolutionBits (dev : Byte)
deriving DecidableEq, Repr

/-- The device slot a command names, `CMD[15:8]` (spec/30_encoding.md R61). -/
def Instr.dev : Instr → Byte
  | .init d _ => d
  | .setFrequency d _ => d
  | .configureChannel d _ _ _ _ _ _ _ _ _ => d
  | .enableDutyCycle d _ _ => d
  | .disable d _ => d
  | .getClockFrequency d => d
  | .getPeriodTicks d => d
  | .getResolutionBits d => d

/-- The words of one issued command: the `CMD` word and the argument registers as they stand at the moment of issue
(spec/30_encoding.md R60, spec/20_memory.md R53). -/
structure Command where
  cmd : Word
  arg0 : Word
  arg1 : Word
  arg2 : Word
  arg3 : Word
  arg4 : Word
  arg5 : Word
deriving DecidableEq, Repr

end Sys2Proof
end

