-- ==== Sys2Proof/Decode.lean ====
section
/-! DEFINITION. The command decoder, total on any words and any bytes, rejecting by name; the encoder beside it, both
written from spec/30_encoding.md R61 to R66; the opcode map R64; and the byte form of a command
(spec/20_memory.md R42, little-endian). -/

namespace Sys2Proof

/-! ### Fields of the command words -/

/-- `op = CMD[7:0]` (R61). -/
def Command.op (c : Command) : Byte := c.cmd.extractLsb' 0 8

/-- `dev = CMD[15:8]` (R61). -/
def Command.dev (c : Command) : Byte := c.cmd.extractLsb' 8 8

/-- `ch = CMD[23:16]` (R61). -/
def Command.ch (c : Command) : Byte := c.cmd.extractLsb' 16 8

/-- `zero = CMD[31:24]`, must be `0x00` (R61). -/
def Command.zero (c : Command) : Byte := c.cmd.extractLsb' 24 8

/-- Format U: `duty_fraction = ARG0[15:0]` (R62). -/
def Command.duty (c : Command) : Half := c.arg0.extractLsb' 0 16

/-- Format U: `ARG0[31:16]`, must be 0 (R62). -/
def Command.dutyZero (c : Command) : Half := c.arg0.extractLsb' 16 16

/-- Format K: `pin = ARG0[7:0]` (R63). -/
def Command.pin (c : Command) : Byte := c.arg0.extractLsb' 0 8

/-- Format K: `alt_function = ARG0[11:8]` (R63). -/
def Command.af (c : Command) : AltFn := c.arg0.extractLsb' 8 4

/-- Format K: `inverted = ARG0[12]` (R63). -/
def Command.inverted (c : Command) : Bool := c.arg0.getLsbD 12

/-- Format K: `ARG0[31:13]`, must be 0 (R63). -/
def Command.configZero (c : Command) : BitVec 19 := c.arg0.extractLsb' 13 19

/-! ### Decoding -/

/-- Why a command word is illegal (R66), or why bytes hold no command. -/
inductive DecodeError where
  /-- `CMD[31:24] != 0`. -/
  | topByte
  /-- `op == 0x00` or `op >= 0x09`. -/
  | reservedOp
  /-- The format has no channel and `CMD[23:16] != 0`. -/
  | channelField
  /-- Format U and `ARG0[31:16] != 0`. -/
  | dutyField
  /-- Format K and `ARG0[31:13] != 0`. -/
  | configField
  /-- Fewer bytes than the seven words of a command. -/
  | truncated
deriving DecidableEq, Repr

/-- A command of a format without a channel: `CMD[23:16]` must be 0 (R62, R66). -/
def decodeNoChannel (c : Command) (i : Instr) : Except DecodeError Instr :=
  if c.ch = 0 then .ok i else .error .channelField

/-- CONFIGURE_CHANNEL's operands from format K (R63). -/
def decodeConfigure (c : Command) : Except DecodeError Instr :=
  if c.configZero = 0 then
    .ok (.configureChannel c.dev c.ch c.pin c.af c.inverted c.arg1 c.arg2 c.arg3 c.arg4 c.arg5)
  else .error .configField

/-- ENABLE_DUTY_CYCLE's operands from format U (R63). -/
def decodeEnable (c : Command) : Except DecodeError Instr :=
  if c.dutyZero = 0 then .ok (.enableDutyCycle c.dev c.ch c.duty) else .error .dutyField

/-- The command an issued set of words stands for, or the name of what makes it illegal (R64, R66). -/
def decode (c : Command) : Except DecodeError Instr :=
  if c.zero = 0 then
    if c.op = 0x01 then decodeNoChannel c (.init c.dev c.arg0)
    else if c.op = 0x02 then decodeNoChannel c (.setFrequency c.dev c.arg0)
    else if c.op = 0x03 then decodeConfigure c
    else if c.op = 0x04 then decodeEnable c
    else if c.op = 0x05 then .ok (.disable c.dev c.ch)
    else if c.op = 0x06 then decodeNoChannel c (.getClockFrequency c.dev)
    else if c.op = 0x07 then decodeNoChannel c (.getPeriodTicks c.dev)
    else if c.op = 0x08 then decodeNoChannel c (.getResolutionBits c.dev)
    else .error .reservedOp
  else .error .topByte

/-! ### Encoding -/

/-- The `CMD` word `{zero, ch, dev, op}` (R61). -/
def cmdWord (op dev ch : Byte) : Word := (0 : Byte) ++ ch ++ dev ++ op

/-- `ARG0` of format U: bits 31:16 zero, `duty_fraction` in bits 15:0 (R62). -/
def dutyWord (duty : Half) : Word := (0 : Half) ++ duty

/-- `ARG0` of format K: bits 31:13 zero, `inverted`, `alt_function`, `pin` (R63). -/
def configWord (pin : Byte) (af : AltFn) (inverted : Bool) : Word :=
  (0 : BitVec 19) ++ BitVec.ofBool inverted ++ af ++ pin

/-- The words of a command; an argument register its format does not list is 0 (it is not read, R62). -/
def encode : Instr → Command
  | .init d h => ⟨cmdWord 0x01 d 0, h, 0, 0, 0, 0, 0⟩
  | .setFrequency d f => ⟨cmdWord 0x02 d 0, f, 0, 0, 0, 0, 0⟩
  | .configureChannel d ch pin af inv n ccb cdata scb sdata =>
      ⟨cmdWord 0x03 d ch, configWord pin af inv, n, ccb, cdata, scb, sdata⟩
  | .enableDutyCycle d ch duty => ⟨cmdWord 0x04 d ch, dutyWord duty, 0, 0, 0, 0, 0⟩
  | .disable d ch => ⟨cmdWord 0x05 d ch, 0, 0, 0, 0, 0, 0⟩
  | .getClockFrequency d => ⟨cmdWord 0x06 d 0, 0, 0, 0, 0, 0, 0⟩
  | .getPeriodTicks d => ⟨cmdWord 0x07 d 0, 0, 0, 0, 0, 0, 0⟩
  | .getResolutionBits d => ⟨cmdWord 0x08 d 0, 0, 0, 0, 0, 0, 0⟩

/-- The words of `c` that the format of `i` lists: its `CMD` word and the argument registers it reads, the others 0
(R62). -/
def Command.listed (c : Command) : Instr → Command
  | .init _ _ => ⟨c.cmd, c.arg0, 0, 0, 0, 0, 0⟩
  | .setFrequency _ _ => ⟨c.cmd, c.arg0, 0, 0, 0, 0, 0⟩
  | .configureChannel _ _ _ _ _ _ _ _ _ _ => c
  | .enableDutyCycle _ _ _ => ⟨c.cmd, c.arg0, 0, 0, 0, 0, 0⟩
  | .disable _ _ => ⟨c.cmd, 0, 0, 0, 0, 0, 0⟩
  | .getClockFrequency _ => ⟨c.cmd, 0, 0, 0, 0, 0, 0⟩
  | .getPeriodTicks _ => ⟨c.cmd, 0, 0, 0, 0, 0, 0⟩
  | .getResolutionBits _ => ⟨c.cmd, 0, 0, 0, 0, 0, 0⟩

/-! ### The opcode map -/

/-- One row of the opcode map R64: a `CMD` word `w` selects the row when `w &&& mask = pattern`. -/
structure OpcodeRow where
  mnemonic : String
  mask : Word
  pattern : Word
deriving DecidableEq, Repr

/-- `w` selects the row (R64). -/
def OpcodeRow.selects (r : OpcodeRow) (w : Word) : Bool := w &&& r.mask == r.pattern

/-- The row of a command in the opcode map R64. -/
def Instr.row : Instr → OpcodeRow
  | .init _ _ => ⟨"INIT", 0xFFFF00FF, 0x00000001⟩
  | .setFrequency _ _ => ⟨"SET_FREQUENCY", 0xFFFF00FF, 0x00000002⟩
  | .configureChannel _ _ _ _ _ _ _ _ _ _ => ⟨"CONFIGURE_CHANNEL", 0xFF0000FF, 0x00000003⟩
  | .enableDutyCycle _ _ _ => ⟨"ENABLE_DUTY_CYCLE", 0xFF0000FF, 0x00000004⟩
  | .disable _ _ => ⟨"DISABLE", 0xFF0000FF, 0x00000005⟩
  | .getClockFrequency _ => ⟨"GET_CLOCK_FREQUENCY", 0xFFFF00FF, 0x00000006⟩
  | .getPeriodTicks _ => ⟨"GET_PERIOD_TICKS", 0xFFFF00FF, 0x00000007⟩
  | .getResolutionBits _ => ⟨"GET_RESOLUTION_BITS", 0xFFFF00FF, 0x00000008⟩

/-- The opcode map R64, row by row. -/
def opcodeTable : List OpcodeRow :=
  [ (Instr.init 0 0).row, (Instr.setFrequency 0 0).row,
    (Instr.configureChannel 0 0 0 0 false 0 0 0 0 0).row, (Instr.enableDutyCycle 0 0 0).row,
    (Instr.disable 0 0).row, (Instr.getClockFrequency 0).row, (Instr.getPeriodTicks 0).row,
    (Instr.getResolutionBits 0).row ]

/-! ### The byte form -/

/-- The four bytes of a word, the byte at offset `+0` holding bits 7:0 (spec/20_memory.md R42). -/
def wordBytes (w : Word) : List Byte :=
  [w.extractLsb' 0 8, w.extractLsb' 8 8, w.extractLsb' 16 8, w.extractLsb' 24 8]

/-- The word of the first four bytes and the bytes after it (spec/20_memory.md R42). -/
def readWord : List Byte → Option (Word × List Byte)
  | b0 :: b1 :: b2 :: b3 :: rest => some (b3 ++ b2 ++ b1 ++ b0, rest)
  | _ => none

/-- The words of a command in port order: `CMD`, then `ARG0 .. ARG5` (spec/20_memory.md R41). -/
def Command.words (c : Command) : List Word :=
  [c.cmd, c.arg0, c.arg1, c.arg2, c.arg3, c.arg4, c.arg5]

/-- The 28 bytes of a command (spec/20_memory.md R41, R42). -/
def Command.bytes (c : Command) : List Byte := c.words.flatMap wordBytes

/-- The first seven words of a list of bytes as a command, and the bytes after them. -/
def readCommand (bs : List Byte) : Option (Command × List Byte) := do
  let (cmd, bs) ← readWord bs
  let (arg0, bs) ← readWord bs
  let (arg1, bs) ← readWord bs
  let (arg2, bs) ← readWord bs
  let (arg3, bs) ← readWord bs
  let (arg4, bs) ← readWord bs
  let (arg5, bs) ← readWord bs
  return (⟨cmd, arg0, arg1, arg2, arg3, arg4, arg5⟩, bs)

/-- The command at the front of a list of bytes, and the bytes after it. -/
def decodeBytes (bs : List Byte) : Except DecodeError (Instr × List Byte) :=
  match readCommand bs with
  | none => .error .truncated
  | some (c, rest) => (decode c).map (·, rest)

/-- The 28 bytes of the instruction whose low `nbits` bits are `w`, numbered from bit 0 of the first word; the bits above
are 0. -/
def tableBytes (nbits w : Nat) : List Byte :=
  (List.range 28).map fun k => BitVec.ofNat 8 ((w % 2 ^ nbits) >>> (8 * k))

/-- The command of those bytes. -/
def tableCommand (nbits w : Nat) : Command :=
  match readCommand (tableBytes nbits w) with
  | some (c, _) => c
  | none => ⟨0, 0, 0, 0, 0, 0, 0⟩

/-- The instruction the decoder reads from an opcode-table word. -/
def decodeTableWord (nbits w : Nat) : Option Instr :=
  match decodeBytes (tableBytes nbits w) with
  | .ok (i, _) => some i
  | .error _ => none

end Sys2Proof
end

