-- ==== Sys2Proof/Config.lean ====
section
/-! DEFINITION. The implementation parameters of PWMSEQ (spec/00_scope.md R5): the constants the spec fixes, the type
of the platform parameters it leaves open (`Platform`, a model argument: `State.plat` holds one, no step writes it),
and the free values, each an opaque constant with no body. -/

namespace Sys2Proof

namespace Config

/-- `NOPIN = 0xFF`, "no pin assigned" (spec/00_scope.md R5). PRESUMED by the spec itself (log 14). -/
def noPin : Byte := 0xFF

/-- `NOAF = 0xF` (spec/00_scope.md R5). PRESUMED by the spec itself (log 14). -/
def noAf : AltFn := 0xF

/-- `SENTINEL = 0x0FFFFFFF`, the disabled-record value of CHCFG (spec/10_state.md R21). PRESUMED by the spec itself
(log 14). -/
def sentinel : Word := 0x0FFFFFFF

end Config

/-- The answer of the pin-mux to one call (spec/20_memory.md R54). -/
inductive PinAnswer where
  | ok
  | fail
deriving DecidableEq, Repr, Inhabited

/-- `CH_COUNT[d]`: the hardware channel count of a peripheral, "1, 2, or 4" (spec/10_state.md R11). -/
inductive ChCount where
  | one
  | two
  | four
deriving DecidableEq, Repr, Inhabited

/-- What `ChCountOf` and `ClockOf` say of one handle (spec/00_scope.md R5): a channel count and an input clock in Hz,
`> 0`. -/
structure TimerModel where
  chCount : ChCount
  clock : Word
  clock_pos : 0 < clock
deriving DecidableEq, Repr

/-- Which records `enabled_total` counts (spec/93_implementation_defined.md U9). `nonDisabled` is the normative rule
(spec/41_commit_engine.md R94). -/
inductive CountRule where
  | nonDisabled
  | enabledFlag
deriving DecidableEq, Repr

/-- The parameters the platform fixes (spec/00_scope.md R5, spec/93_implementation_defined.md U2). `timers` is the
"per-MCU clock/channel-count table" (spec/60_exceptions.md R170): a handle listed with `none` is outside the domain of
`ChCountOf` and `ClockOf`. -/
structure Platform where
  timers : List (Word × Option TimerModel)
  pullMode : Word
  forceUpdatePends : Bool
  countRule : CountRule
deriving DecidableEq, Repr

namespace Config

/-- FREE VALUE (log 5): `ChCountOf` and `ClockOf` of a handle the platform's table does not list; `none` is a handle
outside their domain (spec/93_implementation_defined.md U6). -/
opaque timerOf : Word → Option TimerModel

/-- FREE VALUE (log 4): `PULL_MODE` of the platform of the reset state (spec/00_scope.md R5). -/
opaque pullMode : Word

/-- FREE VALUE (log 4): `FORCE_UPDATE_PENDS` of the platform of the reset state (spec/20_memory.md R47). -/
opaque forceUpdatePends : Bool

/-- FREE VALUE (log 2): the pin-mux's answer number `n` where the environment has fixed none
(spec/20_memory.md R54). -/
opaque pinAnswer : Nat → PinAnswer

/-- The platform of `State.reset`. DESIGN CHOICE (log 4): the handles are those of spec/95_test_vectors.md P4; the
counting rule is the normative one; what the spec leaves open without an example stays free. -/
def platform : Platform where
  timers :=
    [ (0x40000400, some { chCount := .four, clock := 72000000, clock_pos := by decide }),
      (0x40000800, some { chCount := .two, clock := 16000000, clock_pos := by decide }) ]
  pullMode := pullMode
  forceUpdatePends := forceUpdatePends
  countRule := .nonDisabled

end Config

end Sys2Proof
end

