-- ==== Sys2Proof/Machine/State.lean ====
section
/-! DEFINITION. The state of PWMSEQ as plain data (spec/10_state.md R10 to R32), the reasons a step can stop, and the
state after power-on reset (spec/10_state.md R36). -/

namespace Sys2Proof.Machine

/-! ### Values -/

/-- The kind of a callback (spec/10_state.md R31). -/
inductive CallbackKind where
  | cycle
  | seq
deriving DecidableEq, Repr

/-- `HSTATE`, the position of the handler (spec/10_state.md R31, spec/42_countdown_handler.md R113). -/
inductive HState where
  /-- No invocation in progress: the foreground context. -/
  | idle
  /-- About to read `PENDING[d]`. -/
  | scan (d : Nat)
  /-- About to examine channel `j` of device `d`. -/
  | chan (d j : Nat)
  /-- A callback for channel `j` of device `d` is outstanding. -/
  | cb (d j : Nat) (kind : CallbackKind)
deriving DecidableEq, Repr

/-- The two agents that issue commands (spec/10_state.md R10). -/
inductive Agent where
  | foreground
  | callee
deriving DecidableEq, Repr

/-- The result codes of spec/60_exceptions.md R150. -/
inductive ResultCode where
  | ok
  | noDevice
  | noTimerHandle
  | channel
  | frequency
  | pinAssignment
  | badCommand
deriving DecidableEq, Repr

/-- One access of the command port: `n` bytes at byte offset `addr` (spec/20_memory.md R41, R43). -/
inductive Access where
  | read (addr n : Nat)
  | write (addr n : Nat) (v : Word)
deriving DecidableEq, Repr

/-- What the environment does next (log 1). -/
inductive Input where
  /-- An agent accesses the command port. -/
  | access (who : Agent) (a : Access)
  /-- The period-elapsed event of device `d` (spec/20_memory.md R48). -/
  | periodElapsed (d : Nat)
  /-- The interrupt controller starts an invocation on the request (spec/60_exceptions.md R157). -/
  | interrupt
  /-- An invocation begins without regard to the request (spec/60_exceptions.md R161). -/
  | spurious
  /-- The callee returns (spec/20_memory.md R55). -/
  | calleeReturn
deriving DecidableEq, Repr

/-- A port event the block produces (log 7). -/
inductive Output where
  /-- The word an agent's read of the command port returned (spec/20_memory.md R44). -/
  | readData (addr : Nat) (v : Word)
  /-- `assign_pin(pin, af, pull)` and its answer (spec/20_memory.md R54). -/
  | assignPin (pin : Byte) (af : AltFn) (pull : Word) (answer : PinAnswer)
  /-- `unassign_pin(pin)` and its answer (spec/20_memory.md R54). -/
  | unassignPin (pin : Byte) (answer : PinAnswer)
  /-- `CounterReset(d)` (spec/20_memory.md R47). -/
  | counterReset (d : Nat)
  /-- The tuple presented on the callback port (spec/20_memory.md R55). -/
  | callback (kind : CallbackKind) (d j : Nat) (handle data : Word)
deriving DecidableEq, Repr

/-! ### Records and devices -/

/-- The fields of a CHCFG word (spec/10_state.md R20 to R28). -/
structure ChCfg where
  duty : Half
  pin : Byte
  af : AltFn
  invert : Bool
  enabled : Bool
  update : Bool
  configure : Bool
deriving DecidableEq, Repr

/-- Channel `i` of a device: its record (spec/10_state.md R20, R29, R30) and its timer-port registers (R16, R17). -/
structure Channel where
  /-- `CHCFG[d][i]`. -/
  chcfg : Word
  /-- `CYCLE_COUNT[d][i]`. -/
  cycleCount : Word
  /-- `CYCLE[d][i]`. -/
  cycle : Word
  /-- `CYCLE_CB[d][i]`; 0 is absent. -/
  cycleCb : Word
  /-- `CYCLE_DATA[d][i]`. -/
  cycleData : Word
  /-- `SEQ_CB[d][i]`; 0 is absent. -/
  seqCb : Word
  /-- `SEQ_DATA[d][i]`. -/
  seqData : Word
  /-- `COMPARE[d][i]`, staged. -/
  compare : Half
  /-- `COMPARE_ACT[d][i]`, active. -/
  compareAct : Half
  /-- `OC_PWM[d][i]`. -/
  ocPwm : Bool
  /-- `OC_INVERT[d][i]`. -/
  ocInvert : Bool
  /-- `OC_PRELOAD[d][i]`. -/
  ocPreload : Bool
  /-- `CH_OUT_EN[d][i]`. -/
  chOutEn : Bool
deriving DecidableEq, Repr

/-- The `MAX_CH = 4` channel slots of a device, by index (spec/00_scope.md R5). -/
structure Quad (α : Type) where
  c0 : α
  c1 : α
  c2 : α
  c3 : α
deriving DecidableEq, Repr

/-- One device slot (spec/10_state.md R11, R14, R15, R18, R19) with its channels. -/
structure Device where
  /-- `DEV_VALID[d]`. -/
  valid : Bool
  /-- `HANDLE[d]`. -/
  handle : Word
  /-- `CH_COUNT[d]`. -/
  chCount : ChCount
  /-- `TIMER_CLOCK[d]`. -/
  timerClock : Word
  /-- `PRESCALE[d]`, staged. -/
  prescale : Half
  /-- `RELOAD[d]`, staged. -/
  reload : Half
  /-- `PRESCALE_ACT[d]`, active. -/
  prescaleAct : Half
  /-- `RELOAD_ACT[d]`, active. -/
  reloadAct : Half
  /-- `COUNTER_EN[d]`. -/
  counterEn : Bool
  /-- `PENDING[d]`. -/
  pending : Bool
  /-- `CH[d][0 .. 3]`. -/
  chs : Quad Channel
deriving DecidableEq, Repr

/-! ### The state -/

/-- The state of the block (spec/10_state.md R10), the platform it runs on (spec/00_scope.md R5), and the model's own
fields for its ports (log 1, log 2, log 7). -/
structure State where
  /-- The platform parameters; no step writes them (log 3). -/
  plat : Platform
  /-- `CMD`, register 0 (spec/10_state.md R12). -/
  cmd : Word
  arg0 : Word
  arg1 : Word
  arg2 : Word
  arg3 : Word
  arg4 : Word
  arg5 : Word
  /-- `RESULT`, register 7. -/
  result : Word
  /-- `RDATA`, register 8. -/
  rdata : Word
  /-- The device slots `0 .. N_DEV-1`; `N_DEV` is the length of the list. -/
  devices : List Device
  /-- `HSTATE` (spec/10_state.md R31). -/
  hstate : HState
  /-- `IRQ_EN` (spec/10_state.md R32). -/
  irqEn : Bool
  /-- The pin-mux's next answers, where the environment has fixed them (log 2). -/
  pinAnswers : List PinAnswer
  /-- How many free answers of the pin-mux have been drawn (log 2). -/
  pinDraws : Nat
  /-- What the environment does next, oldest first (log 1). -/
  inputs : List Input
  /-- The port events produced so far, oldest first (log 7). -/
  outputs : List Output
deriving DecidableEq, Repr

/-! ### Why a step stops -/

/-- The machine is stuck. -/
inductive Fault where
  /-- Raised by INIT with a handle for which `ChCountOf` or `ClockOf` is not defined: an "unrecoverable programming
  error", "the model gives it no step" (spec/44_channel_commands.md R131, spec/93_implementation_defined.md U6). Safe:
  the run stops where the source stops by assertion. -/
  | unreachablePeripheral
deriving DecidableEq, Repr

/-- The model declines to go on: the environment does what the spec says nothing of. -/
inductive Refusal where
  /-- An instruction without a meaning; no arm of `exec` raises it. Safe. -/
  | notModelled (mnemonic : String)
  /-- Raised by a port access that is no aligned 32-bit access of an offset up to 0x20: "refused", "a model gives it no
  step" (spec/20_memory.md R43, spec/93_implementation_defined.md U12). Safe. -/
  | badPortAccess
  /-- Raised by an access of the foreground while `HSTATE` is not `IDLE`, or of the callee outside its window: a run that
  breaks spec/60_exceptions.md R165(a), of which the rules "say nothing". Safe. -/
  | issuerOutOfTurn
  /-- Raised by a period-elapsed event of a slot that is not valid or whose counter is stopped: the precondition of
  spec/20_memory.md R48 fails, the event cannot occur. Safe. -/
  | eventImpossible
  /-- Raised by an invocation that cannot begin: the handler is running, or no vector is enabled, or (for a taken
  request) the request is 0 (spec/60_exceptions.md R157, spec/42_countdown_handler.md R114). Safe. -/
  | interruptNotTaken
  /-- Raised by a callee's return when no callback is outstanding (spec/42_countdown_handler.md R113). Safe. -/
  | noCallbackOutstanding
deriving DecidableEq, Repr

/-! ### Reset -/

/-- A channel at power-on: CHCFG at `SENTINEL`, everything else 0. DESIGN CHOICE (log 6): the spec leaves every one of
these values unspecified (spec/10_state.md R36). -/
def Channel.reset : Channel where
  chcfg := Config.sentinel
  cycleCount := 0
  cycle := 0
  cycleCb := 0
  cycleData := 0
  seqCb := 0
  seqData := 0
  compare := 0
  compareAct := 0
  ocPwm := false
  ocInvert := false
  ocPreload := false
  chOutEn := false

/-- A device slot at power-on: `DEV_VALID = 0` (spec/10_state.md R36); the other values are DESIGN CHOICE (log 6). -/
def Device.reset : Device where
  valid := false
  handle := 0
  chCount := .one
  timerClock := 0
  prescale := 0
  reload := 0
  prescaleAct := 0
  reloadAct := 0
  counterEn := false
  pending := false
  chs := ⟨Channel.reset, Channel.reset, Channel.reset, Channel.reset⟩

/-- The block after power-on on platform `p` with `n` device slots (spec/10_state.md R36, spec/70_reset_and_hazards.md
R180): `HSTATE = IDLE`, `IRQ_EN = 0`, no slot valid; the command port is DESIGN CHOICE 0 (log 6). -/
def State.powerOn (p : Platform) (n : Nat) : State where
  plat := p
  cmd := 0
  arg0 := 0
  arg1 := 0
  arg2 := 0
  arg3 := 0
  arg4 := 0
  arg5 := 0
  result := 0
  rdata := 0
  devices := List.replicate n Device.reset
  hstate := .idle
  irqEn := false
  pinAnswers := []
  pinDraws := 0
  inputs := []
  outputs := []

/-- The machine right after reset, on the platform of log 4 with `N_DEV = 2` (DESIGN CHOICE, log 4). -/
def State.reset : State := State.powerOn Config.platform 2

end Sys2Proof.Machine
end

