-- ==== Sys2Proof/Machine/Flags.lean ====
section
/-! DEFINITION. The flags of PWMSEQ (spec/10_state.md R37): the fields of the packed word CHCFG (R20), the disabled test
(R21), the request level of the interrupt (spec/20_memory.md R57), and the numbers of the result codes
(spec/60_exceptions.md R150). There are no condition codes. -/

namespace Sys2Proof.Machine

/-! ### The packed word CHCFG -/

/-- The CHCFG word of its fields (R20). -/
def ChCfg.word (f : ChCfg) : Word :=
  BitVec.ofBool f.configure ++ BitVec.ofBool f.update ++ BitVec.ofBool f.enabled ++
    BitVec.ofBool f.invert ++ f.af ++ f.pin ++ f.duty

/-- The fields of a CHCFG word (R20). -/
def ChCfg.ofWord (w : Word) : ChCfg where
  duty := w.extractLsb' 0 16
  pin := w.extractLsb' 16 8
  af := w.extractLsb' 24 4
  invert := w.getLsbD 28
  enabled := w.getLsbD 29
  update := w.getLsbD 30
  configure := w.getLsbD 31

/-- The fields of a channel's CHCFG: aliases of its bits (R20). -/
def Channel.cfg (c : Channel) : ChCfg := ChCfg.ofWord c.chcfg

/-- Writing fields of CHCFG changes the word (R20). -/
def Channel.setCfg (c : Channel) (f : ChCfg) : Channel := { c with chcfg := f.word }

/-- A record is disabled exactly when its whole CHCFG word is `SENTINEL` (R21). -/
def Channel.disabled (c : Channel) : Bool := c.chcfg == Config.sentinel

/-! ### The interrupt request -/

/-- A device contributes to the request: `DEV_VALID[d] == 1 and PENDING[d] == 1` (spec/20_memory.md R57). -/
def Device.requests (dev : Device) : Bool := dev.valid && dev.pending

/-- The request level `IRQ_EN and (exists d: DEV_VALID[d] == 1 and PENDING[d] == 1)` (spec/20_memory.md R57). -/
def State.irqRequest (s : State) : Bool := s.irqEn && s.devices.any Device.requests

/-! ### Result codes -/

/-- The number of a result code (spec/60_exceptions.md R150). -/
def ResultCode.word : ResultCode → Word
  | .ok => 0x00000000
  | .noDevice => 0x00000001
  | .noTimerHandle => 0x00000002
  | .channel => 0x00000003
  | .frequency => 0x00000004
  | .pinAssignment => 0x00000005
  | .badCommand => 0xFFFFFFFF

end Sys2Proof.Machine
end

