-- ==== Sys2Proof/Machine/Ops.lean ====
section
/-! DEFINITION. The named operations over the registers and ports of PWMSEQ: access to a device's channels, the end of a
command (spec/00_scope.md R7(d)), the pin-mux port (spec/20_memory.md R54), the latch of the preloaded registers (R47),
the callback port (R55), and taking the interrupt and returning from it (spec/60_exceptions.md R157, R159). -/

namespace Sys2Proof.Machine

/-! ### Access -/

/-- The slot of index `i`. -/
def Quad.get {α : Type} (q : Quad α) (i : ChIdx) : α :=
  match i with
  | 0 => q.c0
  | 1 => q.c1
  | 2 => q.c2
  | 3 => q.c3

/-- Write the slot of index `i`. -/
def Quad.set {α : Type} (q : Quad α) (i : ChIdx) (a : α) : Quad α :=
  match i with
  | 0 => { q with c0 := a }
  | 1 => { q with c1 := a }
  | 2 => { q with c2 := a }
  | 3 => { q with c3 := a }

/-- Apply `f` to every slot. -/
def Quad.map {α : Type} (f : α → α) (q : Quad α) : Quad α := ⟨f q.c0, f q.c1, f q.c2, f q.c3⟩

/-- The number a channel count stands for (spec/10_state.md R11). -/
def channelsOf : ChCount → Nat
  | .one => 1
  | .two => 2
  | .four => 4

/-- `CH_COUNT[d]` as a number. -/
def Device.nCh (dev : Device) : Nat := channelsOf dev.chCount

/-- The channel indices `0 .. CH_COUNT[d]-1`, ascending. -/
def Device.indices (dev : Device) : List ChIdx := [(0 : ChIdx), 1, 2, 3].filter fun i => i.val < dev.nCh

/-- Channel `i` of a device. -/
def Device.ch (dev : Device) (i : ChIdx) : Channel := dev.chs.get i

/-- Write channel `i` of a device. -/
def Device.setCh (dev : Device) (i : ChIdx) (c : Channel) : Device := { dev with chs := dev.chs.set i c }

/-- `N_DEV` (spec/00_scope.md R5). -/
def State.nDev (s : State) : Nat := s.devices.length

/-- The device slot `d`, if it exists. -/
def State.dev? (s : State) (d : Nat) : Option Device := s.devices[d]?

/-- Write the device slot `d`. -/
def State.setDev (s : State) (d : Nat) (dev : Device) : State := { s with devices := s.devices.set d dev }

/-- Move the handler to a position (spec/10_state.md R31). -/
def State.goto (s : State) (h : HState) : State := { s with hstate := h }

/-- Record a port event (log 7). -/
def State.emit (s : State) (o : Output) : State := { s with outputs := s.outputs ++ [o] }

/-! ### The end of a command -/

/-- `return <Code>`: write RESULT with the code's number and perform no further step of the command
(spec/00_scope.md R7(d)). -/
def finish (code : ResultCode) (s : State) : Host.Outcome State Fault Refusal :=
  .next { s with result := code.word }

/-! ### The pin-mux port -/

/-- The pin-mux's answer to the next call: the environment's where it has fixed one, else a free value (log 2). -/
def drawPin (s : State) : PinAnswer × State :=
  match s.pinAnswers with
  | a :: rest => (a, { s with pinAnswers := rest })
  | [] => (Config.pinAnswer s.pinDraws, { s with pinDraws := s.pinDraws + 1 })

/-- `assign_pin(pin, af, PULL_MODE)`; with `pin == NOPIN` or `af == NOAF` a no-op that answers `ok`
(spec/20_memory.md R54). -/
def assignPin (pin : Byte) (af : AltFn) (s : State) : PinAnswer × State :=
  if pin = Config.noPin ∨ af = Config.noAf then (.ok, s)
  else
    let a := drawPin s
    (a.1, a.2.emit (.assignPin pin af s.plat.pullMode a.1))

/-- `unassign_pin(pin)`; with `pin == NOPIN` a no-op that answers `ok` (spec/20_memory.md R54). -/
def unassignPin (pin : Byte) (s : State) : PinAnswer × State :=
  if pin = Config.noPin then (.ok, s)
  else
    let a := drawPin s
    (a.1, a.2.emit (.unassignPin pin a.1))

/-! ### The timer port -/

/-- The latch of one channel: `COMPARE_ACT <- COMPARE` (spec/20_memory.md R47). -/
def Channel.latch (c : Channel) : Channel := { c with compareAct := c.compare }

/-- `TimerLatch(d)`: every staged copy becomes active (spec/20_memory.md R47). -/
def Device.latch (dev : Device) : Device :=
  { dev with
    prescaleAct := dev.prescale
    reloadAct := dev.reload
    chs := dev.chs.map Channel.latch }

/-- The period-elapsed event of a device: `TimerLatch(d)`; `PENDING[d] <- 1` (spec/20_memory.md R48). -/
def Device.periodElapsed (dev : Device) : Device := { dev.latch with pending := true }

/-- The precondition of the period-elapsed event: `DEV_VALID[d] == 1 and COUNTER_EN[d] == 1`
(spec/20_memory.md R48). -/
def Device.running (dev : Device) : Bool := dev.valid && dev.counterEn

/-! ### The callback port -/

/-- Present a callback tuple and wait: `HSTATE <- CB(d, j, kind)` (spec/20_memory.md R55,
spec/42_countdown_handler.md R107). -/
def presentCallback (kind : CallbackKind) (d j : Nat) (handle data : Word) (s : State) : State :=
  (s.emit (.callback kind d j handle data)).goto (.cb d j kind)

/-! ### The interrupt -/

/-- Handler entry: nothing is saved, `HSTATE <- SCAN(0)` (spec/60_exceptions.md R157). -/
def takeInterrupt (s : State) : State := s.goto (.scan 0)

/-- Handler return: nothing is restored, `HSTATE <- IDLE` (spec/60_exceptions.md R159). -/
def returnFromInterrupt (s : State) : State := s.goto .idle

end Sys2Proof.Machine
end

