-- ==== Sys2Proof/Machine/Operands.lean ====
section
/-! DEFINITION. The operands of a command in the machine: the device slot it names (spec/60_exceptions.md R152) and the
channel it names (R153). The other operands are carried by `Instr` as the decoder copied them
(spec/30_encoding.md R63). -/

namespace Sys2Proof.Machine

/-- The device slot `dev` names, if it exists and is valid; where this is `none` the command returns `NoDevice`
(spec/60_exceptions.md R152). -/
def liveDevice (s : State) (dev : Byte) : Option Device :=
  match s.dev? dev.toNat with
  | some d => if d.valid then some d else none
  | none => none

/-- The channel slot `ch` names, `ch < CH_COUNT[d]`; where this is `none` the command returns `Channel`
(spec/60_exceptions.md R153). -/
def channelIndex (dev : Device) (ch : Byte) : Option ChIdx :=
  if h : ch.toNat < 4 then
    if ch.toNat < dev.nCh then some ⟨ch.toNat, h⟩ else none
  else none

end Sys2Proof.Machine
end

