-- ==== Sys2Proof/Machine/Commit.lean ====
section
/-! DEFINITION. The channel commit engine (spec/41_commit_engine.md): DUTY_TO_COMPARE (R90) and COMMIT (R91 to R95). -/

namespace Sys2Proof.Machine

/-- DUTY_TO_COMPARE (R90): `(duty * (reload + 1)) >> 16`, the product exact. -/
def dutyToCompare (duty reload : Half) : Half :=
  BitVec.ofNat 16 ((duty.toNat * (reload.toNat + 1)) >>> 16)

/-- The loop's three conditions on a channel (R91): non-disabled, `enabled`, and `update_all` or its `update` flag. -/
def Channel.selected (updateAll : Bool) (c : Channel) : Bool :=
  !c.disabled && c.cfg.enabled && (updateAll || c.cfg.update)

/-- The configure branch (R92), with the common `update <- 0`. -/
def Channel.configureBranch (reload : Half) (c : Channel) : Channel :=
  { c with
    ocPwm := true
    ocInvert := c.cfg.invert
    ocPreload := true
    compare := dutyToCompare c.cfg.duty reload
    chOutEn := true
    chcfg := { c.cfg with configure := false, update := false }.word }

/-- The cheap path (R93), with the common `update <- 0`. -/
def Channel.cheapPath (reload : Half) (c : Channel) : Channel :=
  { c with
    compare := dutyToCompare c.cfg.duty reload
    chcfg := { c.cfg with update := false }.word }

/-- One iteration of the loop on channel `i`, with `configured_total` so far (R91). -/
def commitChannel (updateAll : Bool) (acc : Device × Nat) (i : ChIdx) : Device × Nat :=
  let c := acc.1.ch i
  if c.selected updateAll then
    if c.cfg.configure then (acc.1.setCh i (c.configureBranch acc.1.reload), acc.2 + 1)
    else (acc.1.setCh i (c.cheapPath acc.1.reload), acc.2)
  else acc

/-- The loop over the channels in ascending order: the device after it and `configured_total` (R91). -/
def commitLoop (updateAll : Bool) (dev : Device) : Device × Nat :=
  dev.indices.foldl (commitChannel updateAll) (dev, 0)

/-- What `enabled_total` counts (R94, and the alternative of spec/93_implementation_defined.md U9). -/
def countsRecord : CountRule → Channel → Bool
  | .nonDisabled, c => !c.disabled
  | .enabledFlag, c => c.cfg.enabled

/-- `enabled_total` (R94). -/
def enabledTotal (rule : CountRule) (dev : Device) : Nat :=
  dev.indices.countP fun i => countsRecord rule (dev.ch i)

/-- The commit is a cold start: `enabled_total != 0` and `enabled_total == configured_total` (R95). -/
def coldStart (enabledTotal configuredTotal : Nat) : Bool :=
  enabledTotal != 0 && enabledTotal == configuredTotal

/-- The forced update event of a cold start, then the start of the counter (R95): `TimerLatch(d)`, `PENDING[d] <- 1` if
`FORCE_UPDATE_PENDS` (spec/20_memory.md R47), `COUNTER_EN[d] <- 1`. -/
def Device.restart (forceUpdatePends : Bool) (dev : Device) : Device :=
  { dev.latch with pending := dev.pending || forceUpdatePends, counterEn := true }

/-- The counter policy on the two totals (R95). -/
def counterPolicy (p : Platform) (enabledTotal configuredTotal : Nat) (dev : Device) : Device :=
  if enabledTotal = 0 then { dev with counterEn := false }
  else if coldStart enabledTotal configuredTotal then dev.restart p.forceUpdatePends
  else dev

/-- COMMIT on a device: the device after it, and whether it was a cold start (R91 to R95). -/
def commitDevice (p : Platform) (updateAll : Bool) (dev : Device) : Device × Bool :=
  let r := commitLoop updateAll dev
  let total := enabledTotal p.countRule r.1
  (counterPolicy p total r.2 r.1, coldStart total r.2)

/-- COMMIT(d, update_all) (R91); a cold start makes the output event `CounterReset(d)` (R95). Its result is always
`OK`. -/
def commit (d : Nat) (updateAll : Bool) (s : State) : State :=
  match s.dev? d with
  | none => s
  | some dev =>
    let r := commitDevice s.plat updateAll dev
    let t := s.setDev d r.1
    if r.2 then t.emit (.counterReset d) else t

end Sys2Proof.Machine
end

