-- ==== Sys2Proof/Machine/Channels.lean ====
section
/-! DEFINITION. The channel commands (spec/44_channel_commands.md): CONFIGURE_CHANNEL (R134), ENABLE_DUTY_CYCLE (R137),
DISABLE (R139) and the internal DISABLE_CH (R140). -/

namespace Sys2Proof.Machine

/-! ### CONFIGURE_CHANNEL -/

/-- "pin/af change": `pin != R.pin or af != R.af` (R134 step 4). -/
def Channel.pinMoves (c : Channel) (pin : Byte) (af : AltFn) : Bool := pin != c.cfg.pin || af != c.cfg.af

/-- Steps 4 to 6: release the old pin, then assign the new one; the first failure ends it (R134). -/
def movePin (c : Channel) (pin : Byte) (af : AltFn) (s : State) : PinAnswer × State :=
  if c.pinMoves pin af then
    let u := unassignPin c.cfg.pin s
    match u.1 with
    | .fail => u
    | .ok => assignPin pin af u.2
  else (.ok, s)

/-- A structural change: first configuration, pin/af change or polarity change (R134 steps 3, 7, 8). -/
def Channel.structural (c : Channel) (pin : Byte) (af : AltFn) (inverted : Bool) : Bool :=
  c.disabled || c.pinMoves pin af || inverted != c.cfg.invert

/-- Steps 9 to 12: the record after the configuration (R134). -/
def Channel.configured (c : Channel) (pin : Byte) (af : AltFn) (inverted : Bool)
    (cycleCount ccb cdata scb sdata : Word) : Channel :=
  { c with
    chcfg := { c.cfg with
      pin := pin
      af := af
      invert := inverted
      configure := c.cfg.configure || c.structural pin af inverted }.word
    cycleCount := cycleCount
    cycle := cycleCount
    cycleCb := ccb
    cycleData := cdata
    seqCb := scb
    seqData := sdata }

/-- CONFIGURE_CHANNEL (R134); it does not run COMMIT (R135). -/
def execConfigureChannel (d ch pin : Byte) (af : AltFn) (inverted : Bool)
    (cycleCount ccb cdata scb sdata : Word) (s : State) : Host.Outcome State Fault Refusal :=
  match liveDevice s d with
  | none => finish .noDevice s
  | some dev =>
    match channelIndex dev ch with
    | none => finish .channel s
    | some i =>
      let c := dev.ch i
      let r := movePin c pin af s
      match r.1 with
      | .fail => finish .pinAssignment r.2
      | .ok =>
        finish .ok (r.2.setDev d.toNat
          (dev.setCh i (c.configured pin af inverted cycleCount ccb cdata scb sdata)))

/-! ### ENABLE_DUTY_CYCLE -/

/-- Steps 2 to 4: `duty`, `enabled <- 1`, `update <- 1` (R137). -/
def Channel.enable (duty : Half) (c : Channel) : Channel :=
  c.setCfg { c.cfg with duty := duty, enabled := true, update := true }

/-- ENABLE_DUTY_CYCLE (R137): the three field writes, then `COMMIT(d, update_all = 0)`. -/
def execEnableDutyCycle (d ch : Byte) (duty : Half) (s : State) : Host.Outcome State Fault Refusal :=
  match liveDevice s d with
  | none => finish .noDevice s
  | some dev =>
    match channelIndex dev ch with
    | none => finish .channel s
    | some i => finish .ok (commit d.toNat false (s.setDev d.toNat (dev.setCh i ((dev.ch i).enable duty))))

/-! ### DISABLE -/

/-- Steps 1 and 3 of DISABLE_CH on the channel: `CH_OUT_EN <- 0`, `CHCFG <- SENTINEL` (R140, R141). -/
def Channel.clear (c : Channel) : Channel := { c with chOutEn := false, chcfg := Config.sentinel }

/-- DISABLE_CH(d, i) (R140): the pin-mux's answer and the state after it. -/
def disableChannel (d : Nat) (i : ChIdx) (s : State) : PinAnswer × State :=
  match s.dev? d with
  | none => (.ok, s)
  | some dev =>
    let r := unassignPin (dev.ch i).cfg.pin s
    (r.1, commit d false (r.2.setDev d (dev.setCh i (dev.ch i).clear)))

/-- The result code of a disable: `(r == ok) ? OK : PinAssignment` (R140). -/
def disableCode : PinAnswer → ResultCode
  | .ok => .ok
  | .fail => .pinAssignment

/-- DISABLE (R139). -/
def execDisable (d ch : Byte) (s : State) : Host.Outcome State Fault Refusal :=
  match liveDevice s d with
  | none => finish .noDevice s
  | some dev =>
    match channelIndex dev ch with
    | none => finish .channel s
    | some i =>
      let r := disableChannel d.toNat i s
      finish (disableCode r.1) r.2

end Sys2Proof.Machine
end

