-- ==== Sys2Proof/Machine/Init.lean ====
section
/-! DEFINITION. INIT (spec/44_channel_commands.md R131). -/

namespace Sys2Proof.Machine

/-- `ChCountOf` and `ClockOf` of a handle: the platform's table, then a free value (spec/00_scope.md R5, log 5). -/
def timerOf (p : Platform) (handle : Word) : Option TimerModel :=
  match p.timers.lookup handle with
  | some m => m
  | none => Config.timerOf handle

/-- Step 6 of INIT on one channel: the record and `CH_OUT_EN` (R131). -/
def Channel.init (c : Channel) : Channel :=
  { c with
    chcfg := Config.sentinel
    cycleCount := 0
    cycle := 0
    cycleCb := 0
    cycleData := 0
    seqCb := 0
    seqData := 0
    chOutEn := false }

/-- Steps 3 to 7 and 9 of INIT on the slot (R131). -/
def Device.init (handle : Word) (m : TimerModel) (dev : Device) : Device :=
  { dev with
    handle := handle
    chCount := m.chCount
    timerClock := m.clock
    chs := dev.chs.map Channel.init
    counterEn := false
    valid := true }

/-- INIT (R131). A handle outside the domain of `ChCountOf` and `ClockOf` has no step
(spec/93_implementation_defined.md U6). -/
def execInit (d : Byte) (handle : Word) (s : State) : Host.Outcome State Fault Refusal :=
  match s.dev? d.toNat with
  | none => finish .noDevice s
  | some dev =>
    if dev.valid then finish .noDevice s
    else if handle = 0 then finish .noTimerHandle s
    else
      match timerOf s.plat handle with
      | none => .fault .unreachablePeripheral
      | some m => finish .ok { s.setDev d.toNat (dev.init handle m) with irqEn := true }

end Sys2Proof.Machine
end

