-- ==== Sys2Proof/Machine/Query.lean ====
section
/-! DEFINITION. The three queries (spec/43_queries.md R120 to R122); each reads the staged copies. -/

namespace Sys2Proof.Machine

/-- The counter's tick rate: `TIMER_CLOCK[d] / (PRESCALE[d] + 1)` (R120). -/
def clockFrequency (timerClock : Word) (prescale : Half) : Word :=
  BitVec.ofNat 32 (timerClock.toNat / (prescale.toNat + 1))

/-- `RELOAD[d] + 1`, at 32 bits (R121). -/
def periodTicks (reload : Half) : Word := BitVec.ofNat 32 (reload.toNat + 1)

/-- The scan of R122 from bit `b - 1` downward for the first set bit: its index plus one, or 0. -/
def scanDown (p : Half) : Nat → Nat
  | 0 => 0
  | b + 1 => if p.getLsbD b then b + 1 else scanDown p b

/-- The number of significant bits of the reload value (R122). -/
def resolutionBits (reload : Half) : Word := BitVec.ofNat 32 (scanDown reload 16)

/-- GET_CLOCK_FREQUENCY (R120). -/
def execGetClockFrequency (d : Byte) (s : State) : Host.Outcome State Fault Refusal :=
  match liveDevice s d with
  | none => finish .noDevice s
  | some dev => finish .ok { s with rdata := clockFrequency dev.timerClock dev.prescale }

/-- GET_PERIOD_TICKS (R121). -/
def execGetPeriodTicks (d : Byte) (s : State) : Host.Outcome State Fault Refusal :=
  match liveDevice s d with
  | none => finish .noDevice s
  | some dev => finish .ok { s with rdata := periodTicks dev.reload }

/-- GET_RESOLUTION_BITS (R122). -/
def execGetResolutionBits (d : Byte) (s : State) : Host.Outcome State Fault Refusal :=
  match liveDevice s d with
  | none => finish .noDevice s
  | some dev => finish .ok { s with rdata := resolutionBits dev.reload }

end Sys2Proof.Machine
end

