-- ==== Sys2Proof/Machine/Solver.lean ====
section
/-! DEFINITION. The frequency divisor solver and SET_FREQUENCY (spec/40_divisor_solver.md R80 to R85). -/

namespace Sys2Proof.Machine

/-- The pair SOLVE answers (R80). -/
structure DivisorPair where
  prescale : Half
  reload : Half
deriving DecidableEq, Repr

/-- Step 6 of SOLVE: swap so that `div1 <= div2` (R80). -/
def orderFactors (div1 div2 : Nat) : Nat × Nat := if div1 > div2 then (div2, div1) else (div1, div2)

/-- Steps 4 to 8 of SOLVE on a non-zero divisor (R80). -/
def splitDivisor (div : Nat) : DivisorPair :=
  let div1 := div >>> 16
  let div2 := div / (div1 + 1)
  let r := orderFactors div1 div2
  { prescale := BitVec.ofNat 16 r.1, reload := BitVec.ofNat 16 (r.2 - 1) }

/-- SOLVE (R80); `none` is `Err`. -/
def solve (clock freq : Word) : Option DivisorPair :=
  if freq = 0 then none
  else
    let div := clock.toNat / freq.toNat
    if div = 0 then none else some (splitDivisor div)

/-- SET_FREQUENCY (R84): the two staged writes, then `COMMIT(d, update_all = 1)`. -/
def execSetFrequency (d : Byte) (freq : Word) (s : State) : Host.Outcome State Fault Refusal :=
  match liveDevice s d with
  | none => finish .noDevice s
  | some dev =>
    match solve dev.timerClock freq with
    | none => finish .frequency s
    | some r =>
      finish .ok (commit d.toNat true
        (s.setDev d.toNat { dev with prescale := r.prescale, reload := r.reload }))

end Sys2Proof.Machine
end

