-- ==== Sys2Proof/Machine/Dispatch.lean ====
section
/-! DEFINITION. One arm per command: the meaning it calls. -/

namespace Sys2Proof.Machine

/-- Execute one decoded command as one atomic step (spec/20_memory.md R51). -/
def exec (i : Instr) (s : State) : Host.Outcome State Fault Refusal :=
  match i with
  | .init d handle => Sys2Proof.Machine.execInit d handle s
  | .setFrequency d freq => Sys2Proof.Machine.execSetFrequency d freq s
  | .configureChannel d ch pin af inv n ccb cdata scb sdata => Sys2Proof.Machine.execConfigureChannel d ch pin af inv n ccb cdata scb sdata s
  | .enableDutyCycle d ch duty => Sys2Proof.Machine.execEnableDutyCycle d ch duty s
  | .disable d ch => Sys2Proof.Machine.execDisable d ch s
  | .getClockFrequency d => Sys2Proof.Machine.execGetClockFrequency d s
  | .getPeriodTicks d => Sys2Proof.Machine.execGetPeriodTicks d s
  | .getResolutionBits d => Sys2Proof.Machine.execGetResolutionBits d s

end Sys2Proof.Machine
end

