-- ==== Sys2Proof/Machine/Handler.lean ====
section
/-! DEFINITION. The cycle-countdown interrupt handler (spec/42_countdown_handler.md R100 to R114), as the transitions of
`HSTATE` (R113). A segment is a maximal run of transitions that does not enter `CB` (R100, R113): one atomic step. -/

namespace Sys2Proof.Machine

/-- The countdown of a non-terminal period: `CYCLE` is decremented if it is not 0 (R106). -/
def countDown (cycle : Word) : Word := if cycle = 0 then 0 else cycle - 1

/-- A terminal period, `CYCLE == 1`: re-arm, then the sequence callback or the automatic disable, whose result is
discarded (R104, R105). -/
def terminalPeriod (d : Nat) (i : ChIdx) (dev : Device) (s : State) : State :=
  let c := dev.ch i
  let t := s.setDev d (dev.setCh i { c with cycle := c.cycleCount })
  if c.seqCb = 0 then (disableChannel d i t).2.goto (.chan d (i.val + 1))
  else presentCallback .seq d i.val c.seqCb c.seqData t

/-- A non-terminal period, `CYCLE != 1`: count down, then the per-cycle callback if registered (R106). -/
def ordinaryPeriod (d : Nat) (i : ChIdx) (dev : Device) (s : State) : State :=
  let c := dev.ch i
  let t := s.setDev d (dev.setCh i { c with cycle := countDown c.cycle })
  if c.cycleCb = 0 then t.goto (.chan d (i.val + 1))
  else presentCallback .cycle d i.val c.cycleCb c.cycleData t

/-- The rows of R113 from `CHAN(d, j)` with `j < CH_COUNT[d]`. -/
def examineChannel (d : Nat) (i : ChIdx) (dev : Device) (s : State) : State :=
  let c := dev.ch i
  if c.cfg.enabled then
    if c.cycle = 1 then terminalPeriod d i dev s else ordinaryPeriod d i dev s
  else s.goto (.chan d (i.val + 1))

/-- The rows of R113 from `SCAN(d)`: the pending flag is read, and cleared where it read 1 (R101, R102). -/
def scanDevice (d : Nat) (s : State) : State :=
  match s.dev? d with
  | none => returnFromInterrupt s
  | some dev =>
    if dev.requests then (s.setDev d { dev with pending := false }).goto (.chan d 0)
    else s.goto (.scan (d + 1))

/-- The rows of R113 from `CHAN(d, j)`. A slot `d` that does not exist, and a `j` above `CH_COUNT[d]`, are reached by no
run; the scan goes on (log 11). -/
def scanChannel (d j : Nat) (s : State) : State :=
  match s.dev? d with
  | none => s.goto (.scan (d + 1))
  | some dev =>
    if h : j < 4 then
      if j < dev.nCh then examineChannel d ⟨j, h⟩ dev s else s.goto (.scan (d + 1))
    else s.goto (.scan (d + 1))

/-- One micro-transition of `HSTATE` that the handler makes by itself (R113); in `IDLE` and in a callback window it waits. -/
def handlerMicro (s : State) : State :=
  match s.hstate with
  | .idle => s
  | .scan d => scanDevice d s
  | .chan d j => scanChannel d j s
  | .cb _ _ _ => s

/-- The handler has a transition to make by itself. -/
def HState.working : HState → Bool
  | .idle => false
  | .scan _ => true
  | .chan _ _ => true
  | .cb _ _ _ => false

/-- At most `fuel` micro-transitions, stopping at `IDLE` or at a callback window. -/
def runHandler : Nat → State → State
  | 0, s => s
  | fuel + 1, s => if s.hstate.working then runHandler fuel (handlerMicro s) else s

/-- Micro-transitions enough for any segment: six for each device slot, and those that start and end the scan. -/
def segmentFuel (s : State) : Nat := 6 * s.nDev + 8

/-- One handler segment (R100): from where `HSTATE` stands to the next callback window or to `IDLE`. -/
def runSegment (s : State) : State := runHandler (segmentFuel s) s

/-- The callee returns: `CB(d, j, k)` to `CHAN(d, j+1)` (R107, R113). -/
def State.resume (s : State) : State :=
  match s.hstate with
  | .cb d j _ => s.goto (.chan d (j + 1))
  | .idle => s
  | .scan _ => s
  | .chan _ _ => s

end Sys2Proof.Machine
end

