-- ==== Sys2Proof/Machine/Port.lean ====
section
/-! DEFINITION. The command port (spec/20_memory.md R41 to R44, spec/30_encoding.md R60) and what each input of the
environment does: accesses, the period-elapsed event (R48), the interrupt (spec/60_exceptions.md R157, R161), the
callee's return (spec/42_countdown_handler.md R107). -/

namespace Sys2Proof.Machine

/-! ### The registers of the port -/

/-- The nine registers of the command port (spec/10_state.md R12). -/
inductive PortReg where
  | cmd
  | arg0
  | arg1
  | arg2
  | arg3
  | arg4
  | arg5
  | result
  | rdata
deriving DecidableEq, Repr

/-- The register at a byte offset (spec/20_memory.md R41). -/
def portReg : Nat → Option PortReg
  | 0x00 => some .cmd
  | 0x04 => some .arg0
  | 0x08 => some .arg1
  | 0x0C => some .arg2
  | 0x10 => some .arg3
  | 0x14 => some .arg4
  | 0x18 => some .arg5
  | 0x1C => some .result
  | 0x20 => some .rdata
  | _ => none

/-- The register an access of `n` bytes at offset `addr` reaches: only aligned 32-bit accesses of the nine registers are
taken (spec/20_memory.md R43). -/
def accessedReg (addr n : Nat) : Option PortReg := if n = 4 then portReg addr else none

/-- The value of a port register (spec/10_state.md R13). -/
def State.portValue (s : State) : PortReg → Word
  | .cmd => s.cmd
  | .arg0 => s.arg0
  | .arg1 => s.arg1
  | .arg2 => s.arg2
  | .arg3 => s.arg3
  | .arg4 => s.arg4
  | .arg5 => s.arg5
  | .result => s.result
  | .rdata => s.rdata

/-- Store an issuer's word in a port register; a write of RESULT or RDATA is ignored (spec/20_memory.md R44). -/
def State.portStore (s : State) (v : Word) : PortReg → State
  | .cmd => { s with cmd := v }
  | .arg0 => { s with arg0 := v }
  | .arg1 => { s with arg1 := v }
  | .arg2 => { s with arg2 := v }
  | .arg3 => { s with arg3 := v }
  | .arg4 => { s with arg4 := v }
  | .arg5 => { s with arg5 := v }
  | .result => s
  | .rdata => s

/-! ### Issue -/

/-- CMD and the argument registers as they stand (spec/20_memory.md R53). -/
def State.command (s : State) : Command := ⟨s.cmd, s.arg0, s.arg1, s.arg2, s.arg3, s.arg4, s.arg5⟩

/-- Run the command that stands in the port's registers; an illegal one writes `RESULT <- BadCommand` and nothing else
(spec/30_encoding.md R60, R66). -/
def runCommand (s : State) : Host.Outcome State Fault Refusal :=
  match decode s.command with
  | .ok i => exec i s
  | .error _ => finish .badCommand s

/-- A write of a port register: a write of CMD issues the command (spec/20_memory.md R44). -/
def portWrite (r : PortReg) (v : Word) (s : State) : Host.Outcome State Fault Refusal :=
  match r with
  | .cmd => runCommand (s.portStore v .cmd)
  | r => .next (s.portStore v r)

/-- One access of the command port (spec/20_memory.md R43, R44). -/
def portAccess (a : Access) (s : State) : Host.Outcome State Fault Refusal :=
  match a with
  | .read addr n =>
    match accessedReg addr n with
    | none => .refused .badPortAccess
    | some r => .next (s.emit (.readData addr (s.portValue r)))
  | .write addr n v =>
    match accessedReg addr n with
    | none => .refused .badPortAccess
    | some r => portWrite r v s

/-- The agent whose turn it is to access the port: the foreground while `HSTATE == IDLE`, the callee in its window
(spec/20_memory.md R51, spec/60_exceptions.md R165(a)). -/
def HState.issuer : HState → Option Agent
  | .idle => some .foreground
  | .cb _ _ _ => some .callee
  | .scan _ => none
  | .chan _ _ => none

/-! ### Inputs -/

/-- The period-elapsed event of device `d` (spec/20_memory.md R48). -/
def periodEvent (d : Nat) (s : State) : Host.Outcome State Fault Refusal :=
  match s.dev? d with
  | none => .refused .eventImpossible
  | some dev =>
    if dev.running then .next (s.setDev d dev.periodElapsed) else .refused .eventImpossible

/-- An invocation may begin: `HSTATE == IDLE` and the level given (spec/60_exceptions.md R157). -/
def beginInvocation (level : Bool) (s : State) : Host.Outcome State Fault Refusal :=
  if s.hstate = .idle ∧ level = true then .next (runSegment (takeInterrupt s))
  else .refused .interruptNotTaken

/-- The callee's return, and the handler segment after it (spec/42_countdown_handler.md R107, R113). -/
def endCallback (s : State) : Host.Outcome State Fault Refusal :=
  match s.hstate with
  | .cb _ _ _ => .next (runSegment s.resume)
  | .idle => .refused .noCallbackOutstanding
  | .scan _ => .refused .noCallbackOutstanding
  | .chan _ _ => .refused .noCallbackOutstanding

/-- What one input does to the block. A spurious invocation needs the vector to be enabled, not the request
(spec/60_exceptions.md R161, spec/10_state.md R32, log 12). -/
def takeInput (e : Input) (s : State) : Host.Outcome State Fault Refusal :=
  match e with
  | .access who a =>
    if s.hstate.issuer = some who then portAccess a s else .refused .issuerOutOfTurn
  | .periodElapsed d => periodEvent d s
  | .interrupt => beginInvocation s.irqRequest s
  | .spurious => beginInvocation s.irqEn s
  | .calleeReturn => endCallback s

/-- What a step does when the environment lists nothing more: a request that is up is taken, since under weak fairness
its delay is not for ever (spec/60_exceptions.md R157, log 23); else nothing happens (spec/70_reset_and_hazards.md R180,
log 8). -/
def unprompted (s : State) : State :=
  if s.hstate = .idle ∧ s.irqRequest = true then runSegment (takeInterrupt s) else s

/-- One atomic step (spec/20_memory.md R51): a handler that has a transition to make runs its segment; else the next
input is taken; with no input a request that is up is taken. -/
def atomicStep (s : State) : Host.Outcome State Fault Refusal :=
  if s.hstate.working then .next (runSegment s)
  else
    match s.inputs with
    | [] => .next (unprompted s)
    | e :: rest => takeInput e { s with inputs := rest }

/-! ### Placing a command -/

/-- `HSTATE` where an agent may issue: a handler between two atomic steps has none to issue, so it is taken as returned. -/
def HState.issuable : HState → HState
  | .idle => .idle
  | .cb d j k => .cb d j k
  | .scan _ => .idle
  | .chan _ _ => .idle

/-- The agent that issues in a position made issuable. -/
def HState.issuerOr : HState → Agent
  | .cb _ _ _ => .callee
  | .idle => .foreground
  | .scan _ => .foreground
  | .chan _ _ => .foreground

/-- The arguments of `c` in the port's registers and the write of its CMD word as the very next input (log 16). -/
def State.withCommand (s : State) (c : Command) : State :=
  { s with
    arg0 := c.arg0
    arg1 := c.arg1
    arg2 := c.arg2
    arg3 := c.arg3
    arg4 := c.arg4
    arg5 := c.arg5
    hstate := s.hstate.issuable
    inputs := .access s.hstate.issuerOr (.write 0x00 4 c.cmd) :: s.inputs }

end Sys2Proof.Machine
end

