-- ==== Sys2Proof/Machine/Step.lean ====
section
/-! DEFINITION. One step of PWMSEQ (spec/20_memory.md R51), and how an instruction is placed where the next step
fetches it. -/

namespace Sys2Proof.Machine

/-- One atomic step of the block (spec/20_memory.md R51). -/
def step : State → Host.Outcome State Fault Refusal := atomicStep

/-- `s` with an opcode-table word placed so that the next step issues it: its argument words in `ARG0 .. ARG5` and the
write of its `CMD` word as the next input (log 16). -/
def State.withFetchWord (s : State) (nbits w : Nat) : State := s.withCommand (tableCommand nbits w)

end Sys2Proof.Machine
end

