-- ==== Sys2Proof/WellFormed.lean ====
section
/-! DEFINITION. Which commands keep the issuer's obligation. Every operand of `Instr` has its field's width, so every
command has an encoding; the one check left is the obligation of spec/60_exceptions.md R165(c): `pin` and `af` of a
CONFIGURE_CHANNEL are "both sentinel or both assigned" (spec/10_state.md R33(a)). The machine executes a command that
breaks it as the total rule says (spec/93_implementation_defined.md U5, log 15). -/

namespace Sys2Proof

/-- `pin` and `af` are both sentinel or both assigned (spec/10_state.md R33(a)). -/
def pinAfConsistent (pin : Byte) (af : AltFn) : Bool :=
  decide (pin = Config.noPin) == decide (af = Config.noAf)

/-- The command keeps the obligation of spec/60_exceptions.md R165(c). -/
def Instr.wellFormed : Instr → Bool
  | .init _ _ => true
  | .setFrequency _ _ => true
  | .configureChannel _ _ pin af _ _ _ _ _ _ => pinAfConsistent pin af
  | .enableDutyCycle _ _ _ => true
  | .disable _ _ => true
  | .getClockFrequency _ => true
  | .getPeriodTicks _ => true
  | .getResolutionBits _ => true

end Sys2Proof
end

