-- ==== Sys2Proof/Safety.lean ====
section
/-! DEFINITION. The terms in which claims about PWMSEQ are stated: what holds of every record, device and state of a run
(spec/10_state.md R22, R33, spec/41_commit_engine.md R98, spec/60_exceptions.md R153), the power-on states whatever
their unspecified registers hold (spec/10_state.md R36), and which states are the same block. -/

namespace Sys2Proof.Machine

/-! ### Invariants -/

/-- What holds of every record and its outputs between atomic steps. -/
structure Channel.Inv (c : Channel) : Prop where
  /-- `CHCFG == SENTINEL` or `enabled == 1` or `configure == 1` (spec/10_state.md R22). -/
  legal : c.chcfg = Config.sentinel ∨ c.cfg.enabled = true ∨ c.cfg.configure = true
  /-- `update == 0` between atomic steps (spec/41_commit_engine.md R98). -/
  settled : c.cfg.update = false
  /-- `CYCLE <= CYCLE_COUNT` (spec/10_state.md R33(b), spec/42_countdown_handler.md R111). -/
  counted : c.cycle ≤ c.cycleCount
  /-- The output is enabled only for an enabled record whose mode and preload have been written (DEDUCED from
  spec/41_commit_engine.md R92 and spec/44_channel_commands.md R131, R140). -/
  routed : c.chOutEn = true → c.cfg.enabled = true ∧ c.ocPwm = true ∧ c.ocPreload = true

/-- What holds of every valid device slot between atomic steps. -/
structure Device.Inv (dev : Device) : Prop where
  channels : ∀ i : ChIdx, (dev.ch i).Inv
  /-- A record at a slot `>= CH_COUNT[d]` is `SENTINEL` (spec/60_exceptions.md R153). -/
  absent : ∀ i : ChIdx, dev.nCh ≤ i.val → (dev.ch i).chcfg = Config.sentinel
  /-- The counter runs only if a record is non-disabled (spec/10_state.md R33(d)). -/
  counter : dev.counterEn = true → ∃ i : ChIdx, i.val < dev.nCh ∧ (dev.ch i).chcfg ≠ Config.sentinel
  /-- `TIMER_CLOCK[d] > 0` (spec/10_state.md R11). -/
  clock : dev.timerClock ≠ 0

/-- `HSTATE` names a slot and a channel that exist (spec/10_state.md R31). -/
def HState.InRange (h : HState) (s : State) : Prop :=
  match h with
  | .idle => True
  | .scan d => d ≤ s.nDev
  | .chan d j => ∃ dev, s.dev? d = some dev ∧ dev.valid = true ∧ j ≤ dev.nCh
  | .cb d j _ => ∃ dev, s.dev? d = some dev ∧ dev.valid = true ∧ j < dev.nCh

/-- What holds of the block between atomic steps. -/
structure State.Inv (s : State) : Prop where
  /-- `N_DEV >= 1` (spec/00_scope.md R5). -/
  slots : s.devices ≠ []
  devices : ∀ dev ∈ s.devices, dev.valid = true → dev.Inv
  /-- The first successful INIT enables the vector (spec/10_state.md R32). -/
  vector : ∀ dev ∈ s.devices, dev.valid = true → s.irqEn = true
  /-- An invocation runs only with the vector enabled (spec/60_exceptions.md R157). -/
  handler : s.hstate ≠ .idle → s.irqEn = true
  position : s.hstate.InRange s

/-- Every record of every valid slot has `pin` and `af` both sentinel or both assigned (spec/10_state.md R33(a)). -/
def State.PinsConsistent (s : State) : Prop :=
  ∀ dev ∈ s.devices, dev.valid = true → ∀ i : ChIdx, pinAfConsistent (dev.ch i).cfg.pin (dev.ch i).cfg.af = true

/-! ### Power-on -/

/-- A state after power-on, whatever its unspecified registers hold: `HSTATE = IDLE`, `IRQ_EN = 0`, no slot valid
(spec/10_state.md R36, spec/93_implementation_defined.md U1). -/
structure State.PoweredOn (s : State) : Prop where
  slots : s.devices ≠ []
  idle : s.hstate = .idle
  masked : s.irqEn = false
  invalid : ∀ dev ∈ s.devices, dev.valid = false

/-! ### The same block -/

/-- `t` is `s` but for the pin-mux port's answers and the record of port events, which are no state of the block. -/
def State.SameBlock (s t : State) : Prop :=
  t = { s with pinAnswers := t.pinAnswers, pinDraws := t.pinDraws, outputs := t.outputs }

/-! ### The pin-mux's answers -/

/-- The pin-mux's answer to the block's call number `n` from `s` on, counted from 0 (log 2). -/
def State.pinAnswerAt (s : State) (n : Nat) : PinAnswer :=
  (s.pinAnswers[n]?).getD (Config.pinAnswer (s.pinDraws + (n - s.pinAnswers.length)))

/-- `n` answers of the pin-mux were used from `s` to `t` (log 2). -/
def State.AnswersUsed (s t : State) (n : Nat) : Prop :=
  t.pinAnswers = s.pinAnswers.drop n ∧ t.pinDraws = s.pinDraws + (n - s.pinAnswers.length)

/-- The port events of `unassign_pin(pin)` from `s` on: one call with its answer, none for `NOPIN`
(spec/20_memory.md R54). -/
def State.releaseEvents (s : State) (pin : Byte) : List Output :=
  if pin = Config.noPin then [] else [.unassignPin pin (s.pinAnswerAt 0)]

/-- No device has a callback registered on any channel. -/
def State.NoCallbacks (s : State) : Prop :=
  ∀ dev ∈ s.devices, ∀ i : ChIdx, (dev.ch i).cycleCb = 0 ∧ (dev.ch i).seqCb = 0

/-! ### The pseudocode of IRQ_HANDLER as loops -/

/-- The body of the channel loop of spec/42_countdown_handler.md R100 where no callback is registered: the countdown or,
on a terminal period, the re-arm and the automatic disable. -/
def loopChannel (d : Nat) (s : State) (i : ChIdx) : State :=
  match s.dev? d with
  | none => s
  | some dev =>
    let c := dev.ch i
    if c.cfg.enabled then
      if c.cycle = 1 then (disableChannel d i (s.setDev d (dev.setCh i { c with cycle := c.cycleCount }))).2
      else s.setDev d (dev.setCh i { c with cycle := if c.cycle = 0 then c.cycle else c.cycle - 1 })
    else s

/-- The body of the device loop of spec/42_countdown_handler.md R100. -/
def loopDevice (s : State) (d : Nat) : State :=
  match s.dev? d with
  | none => s
  | some dev =>
    if dev.valid && dev.pending then
      dev.indices.foldl (loopChannel d) (s.setDev d { dev with pending := false })
    else s

/-- The whole invocation of spec/42_countdown_handler.md R100 where no callback is registered. -/
def loopHandler (s : State) : State := (List.range s.nDev).foldl loopDevice s

/-- `k` period-elapsed events of device `d`, each served by an invocation of its own. -/
def servedEvents (d : Nat) : Nat → List Input
  | 0 => []
  | k + 1 => .periodElapsed d :: .interrupt :: servedEvents d k

end Sys2Proof.Machine
end

