-- ==== Sys2Proof/Certificates/Slice0/Obligations.lean ====
section
/-! DEFINITION. The statements about PWMSEQ, for the provers. Each docstring names the rules of spec/ it formalises. A
statement that depends on a choice of the spec's own (its marks "decision" and "derived") or of the model's says so; none
depends on a value the model chose for reset, and every one holds for every value of the free values. -/

open Sys2Proof Sys2Proof.Machine

/-! ### Encoding (spec/30_encoding.md; the encoding is the spec's own decision D5) -/

/-- Decode and encode agree on every command, at every value of every operand (R61 to R64). -/
def Obligations.DecodeEncodeRoundTrip : Prop := ∀ i : Instr, decode (encode i) = .ok i

/-- A command that decodes is the encoding of what it decodes to, on every word its format lists (R60 to R63): two words
that decode to one command agree on all its format reads. -/
def Obligations.DecodedWordsAreTheEncoding : Prop :=
  ∀ (c : Command) (i : Instr), decode c = .ok i → encode i = c.listed i

/-- The byte form, little-endian, `CMD` first (spec/20_memory.md R41, R42): the bytes of a command decode to it and leave
the bytes after it. -/
def Obligations.CommandBytesRoundTrip : Prop :=
  ∀ (i : Instr) (rest : List Byte), decodeBytes ((encode i).bytes ++ rest) = .ok (i, rest)

/-- The opcode map (R64): the rows are disjoint; what decodes selects its own row; and a `CMD` word that selects a row
decodes unless a must-be-zero field of `ARG0` is not zero (R66). -/
def Obligations.OpcodeMapDecides : Prop :=
  (∀ r₁ ∈ opcodeTable, ∀ r₂ ∈ opcodeTable, ∀ w : Word, r₁.selects w = true → r₂.selects w = true → r₁ = r₂) ∧
  (∀ (c : Command) (i : Instr), decode c = .ok i → i.row.selects c.cmd = true) ∧
  (∀ c : Command, (∃ r ∈ opcodeTable, r.selects c.cmd = true) →
    (∃ i, decode c = .ok i) ∨ decode c = .error .dutyField ∨ decode c = .error .configField)

/-- Illegal encodings (R66): the conditions, as arithmetic on the words, and what an illegal command does. -/
def Obligations.IllegalCommandsWriteBadCommand : Prop :=
  ∀ s : State,
    let w := s.cmd.toNat
    let op := w % 256
    let illegal := 16777216 ≤ w ∨ op = 0 ∨ 9 ≤ op ∨
      (op ≠ 3 ∧ op ≠ 4 ∧ op ≠ 5 ∧ w / 65536 % 256 ≠ 0) ∨
      (op = 4 ∧ 65536 ≤ s.arg0.toNat) ∨ (op = 3 ∧ 8192 ≤ s.arg0.toNat)
    (illegal ↔ ∃ e, decode s.command = .error e) ∧
    (illegal → runCommand s = .next { s with result := 0xFFFFFFFF })

/-- Words written out from the spec's encodings (R61 to R64, spec/95_test_vectors.md sections 7 and 8). -/
def Obligations.SampleWordsDecode : Prop :=
  decode ⟨0x00000101, 0x40000800, 0, 0, 0, 0, 0⟩ = .ok (.init 1 0x40000800) ∧
  decode ⟨0x00000002, 0x000003E8, 0, 0, 0, 0, 0⟩ = .ok (.setFrequency 0 1000) ∧
  decode ⟨0x00010003, 0x0000111A, 3, 0x100, 0xA, 0, 0⟩ =
    .ok (.configureChannel 0 1 0x1A 1 true 3 0x100 0xA 0 0) ∧
  decode ⟨0x00010004, 0x00004000, 0, 0, 0, 0, 0⟩ = .ok (.enableDutyCycle 0 1 16384) ∧
  decode ⟨0x00020005, 0, 0, 0, 0, 0, 0⟩ = .ok (.disable 0 2) ∧
  decode ⟨0x00000208, 0, 0, 0, 0, 0, 0⟩ = .ok (.getResolutionBits 2)

/-! ### The step and the command port (spec/20_memory.md) -/

/-- A step runs the decoded command (spec/30_encoding.md R60, spec/20_memory.md R44, R53): when the agent whose turn it is
writes `CMD` and the words decode, the step is `exec` of the command on the state with the word written and the input
taken; when they do not decode, `RESULT` becomes `BadCommand` and the word written stays in `CMD`, which is the model's
reading of spec/10_state.md R13 (log 19). -/
def Obligations.StepRunsTheIssuedCommand : Prop :=
  ∀ (s : State) (who : Agent) (v : Word) (rest : List Input),
    s.hstate.issuer = some who → s.inputs = .access who (.write 0x00 4 v) :: rest →
    let t : State := { s with inputs := rest, cmd := v }
    (∀ i, decode t.command = .ok i → step s = exec i t) ∧
    (∀ e, decode t.command = .error e → step s = .next { t with result := 0xFFFFFFFF })

/-- A word placed by `withFetchWord` is the command the very next step runs (the model's interface, log 16). -/
def Obligations.PlacedWordRunsNext : Prop :=
  ∀ (s : State) (nbits w : Nat) (i : Instr), decodeTableWord nbits w = some i →
    let c := tableCommand nbits w
    step (s.withFetchWord nbits w) = exec i { s with
      cmd := c.cmd, arg0 := c.arg0, arg1 := c.arg1, arg2 := c.arg2, arg3 := c.arg3, arg4 := c.arg4, arg5 := c.arg5
      hstate := s.hstate.issuable }

/-- Port accesses (spec/20_memory.md R41, R43, R44): an aligned 32-bit access of an offset up to 0x20 is taken, every
other one refused; a read returns the register and changes nothing of the block; a write of an `ARGk` sets it; a write of
`RESULT` or `RDATA` is ignored; a write of `CMD` issues. -/
def Obligations.PortAccessesMoveWholeWords : Prop :=
  ∀ (s : State) (addr n : Nat) (v : Word),
    (n = 4 ∧ addr % 4 = 0 ∧ addr ≤ 0x20 →
      ∃ r, accessedReg addr n = some r ∧
        portAccess (.read addr n) s = .next (s.emit (.readData addr (s.portValue r)))) ∧
    (¬(n = 4 ∧ addr % 4 = 0 ∧ addr ≤ 0x20) →
      portAccess (.read addr n) s = .refused .badPortAccess ∧
      portAccess (.write addr n v) s = .refused .badPortAccess) ∧
    portAccess (.write 0x00 4 v) s = runCommand { s with cmd := v } ∧
    portAccess (.write 0x04 4 v) s = .next { s with arg0 := v } ∧
    portAccess (.write 0x08 4 v) s = .next { s with arg1 := v } ∧
    portAccess (.write 0x0C 4 v) s = .next { s with arg2 := v } ∧
    portAccess (.write 0x10 4 v) s = .next { s with arg3 := v } ∧
    portAccess (.write 0x14 4 v) s = .next { s with arg4 := v } ∧
    portAccess (.write 0x18 4 v) s = .next { s with arg5 := v } ∧
    portAccess (.write 0x1C 4 v) s = .next s ∧
    portAccess (.write 0x20 4 v) s = .next s ∧
    portAccess (.read 0x00 4) s = .next (s.emit (.readData 0x00 s.cmd)) ∧
    portAccess (.read 0x1C 4) s = .next (s.emit (.readData 0x1C s.result)) ∧
    portAccess (.read 0x20 4) s = .next (s.emit (.readData 0x20 s.rdata))

/-- "the block does nothing until a command is issued" (spec/70_reset_and_hazards.md R180, log 8): with no input a step
changes nothing, unless an interrupt request waits in the foreground (spec/60_exceptions.md R157, log 23; see
`Obligations.InterruptEntry`). A callee that never returns leaves the block in its window
(spec/42_countdown_handler.md R107). -/
def Obligations.NoInputNothingHappens : Prop :=
  ∀ s : State, s.hstate.working = false → s.inputs = [] →
    s.hstate ≠ .idle ∨ s.irqEn = false ∨ (∀ dev ∈ s.devices, dev.valid = false ∨ dev.pending = false) →
    step s = .next s

/-- One issuer at a time (spec/60_exceptions.md R165(a), spec/20_memory.md R51): an access by the agent whose turn it is
not has no step (the model's refusal, log 9). -/
def Obligations.OutOfTurnAccessHasNoStep : Prop :=
  ∀ (s : State) (who : Agent) (a : Access) (rest : List Input),
    s.hstate.working = false → s.hstate.issuer ≠ some who → s.inputs = .access who a :: rest →
    step s = .refused .issuerOutOfTurn

/-! ### The solver and SET_FREQUENCY (spec/40_divisor_solver.md) -/

/-- SOLVE (R80): it errs exactly on a zero frequency and on one above the clock, and else splits
`div = clock / freq` into `div / 65536` and `div / (div / 65536 + 1) - 1`. -/
def Obligations.SolveSplitsTheDivisor : Prop :=
  ∀ clock freq : Word,
    (solve clock freq = none ↔ freq = 0 ∨ clock < freq) ∧
    ∀ r, solve clock freq = some r →
      let div := clock.toNat / freq.toNat
      r.prescale.toNat = div / 65536 ∧ r.reload.toNat = div / (div / 65536 + 1) - 1

/-- Bounds of SOLVE (R81), each clause of the rule, with the exact set of divisors where `prescale <= reload` fails. -/
def Obligations.SolverBounds : Prop :=
  ∀ (clock freq : Word) (r : DivisorPair), solve clock freq = some r →
    let div := clock.toNat / freq.toNat
    let div1 := div / 65536
    let div2 := div / (div1 + 1)
    div1 ≤ 65535 ∧ 1 ≤ div2 ∧ div2 ≤ 65535 ∧ div1 ≤ div2 ∧
    r.prescale.toNat = div1 ∧ r.reload.toNat = div2 - 1 ∧ r.reload.toNat ≤ 65534 ∧
    r.prescale.toNat ≤ r.reload.toNat + 1 ∧
    (r.prescale.toNat ≤ r.reload.toNat ↔ ¬(div = 4294836224 ∨ 4294901760 ≤ div)) ∧
    (div = 4294836224 → r.prescale.toNat = 65534 ∧ r.reload.toNat = 65533) ∧
    (4294901760 ≤ div → r.prescale.toNat = 65535 ∧ r.reload.toNat = 65534) ∧
    (clock.toNat < 4294836224 → r.prescale.toNat ≤ r.reload.toNat)

/-- Accuracy of SOLVE (R82): the produced frequency is never below the requested one, and equals it exactly when `freq`
divides `clock` and `div1 + 1` divides `div`. -/
def Obligations.SolveNeverBelowRequest : Prop :=
  ∀ (clock freq : Word) (r : DivisorPair), solve clock freq = some r →
    let div := clock.toNat / freq.toNat
    let product := (r.prescale.toNat + 1) * (r.reload.toNat + 1)
    product ≤ div ∧ product * freq.toNat ≤ clock.toNat ∧
    (product * freq.toNat = clock.toNat ↔ freq.toNat ∣ clock.toNat ∧ div / 65536 + 1 ∣ div)

/-- SET_FREQUENCY completes (R84, R85): for every live slot and every frequency from 1 to the clock it answers `OK` with
the staged pair of SOLVE; every enabled channel has its `COMPARE` rewritten against the new period and `update` and
`configure` clear, its mode, polarity, preload and output enable written exactly where `configure` was set, the rest of it as
before; a record that is not enabled is as before, but for its active compare value; with no record left the counter stops,
and with one left it does not, under the normative counting rule. -/
def Obligations.SetFrequencyCompletes : Prop :=
  ∀ (s : State) (d : Byte) (f : Word) (dev : Device),
    s.dev? d.toNat = some dev → dev.valid = true → f ≠ 0 → f ≤ dev.timerClock →
    ∃ (t : State) (dev' : Device), exec (.setFrequency d f) s = .next t ∧ t.result = 0x00000000 ∧
      t.dev? d.toNat = some dev' ∧
      let div := dev.timerClock.toNat / f.toNat
      dev'.prescale.toNat = div / 65536 ∧ dev'.reload.toNat = div / (div / 65536 + 1) - 1 ∧
      (∀ i : ChIdx, i.val < dev.nCh → (dev.ch i).cfg.enabled = true →
        (dev'.ch i).compare.toNat = (dev.ch i).cfg.duty.toNat * (dev'.reload.toNat + 1) / 65536 ∧
        (dev'.ch i).cfg = { (dev.ch i).cfg with update := false, configure := false } ∧
        dev'.ch i = { dev.ch i with
          chcfg := (dev'.ch i).chcfg, compare := (dev'.ch i).compare, compareAct := (dev'.ch i).compareAct
          ocPwm := (dev.ch i).ocPwm || (dev.ch i).cfg.configure
          ocInvert := if (dev.ch i).cfg.configure then (dev.ch i).cfg.invert else (dev.ch i).ocInvert
          ocPreload := (dev.ch i).ocPreload || (dev.ch i).cfg.configure
          chOutEn := (dev.ch i).chOutEn || (dev.ch i).cfg.configure }) ∧
      (∀ i : ChIdx, (dev.ch i).cfg.enabled = false →
        dev'.ch i = { dev.ch i with compareAct := (dev'.ch i).compareAct }) ∧
      ((∀ i : ChIdx, i.val < dev.nCh → (dev.ch i).chcfg = 0x0FFFFFFF) → dev'.counterEn = false) ∧
      (s.plat.countRule = .nonDisabled → (∃ i : ChIdx, i.val < dev.nCh ∧ (dev.ch i).chcfg ≠ 0x0FFFFFFF) →
        dev'.counterEn = dev.counterEn ∨ dev'.counterEn = true)

/-- SET_FREQUENCY's errors (R84, spec/60_exceptions.md R154): a zero frequency, or one above the clock, gives `Frequency`
and writes no other register. -/
def Obligations.SetFrequencyRejects : Prop :=
  ∀ (s : State) (d : Byte) (f : Word) (dev : Device),
    s.dev? d.toNat = some dev → dev.valid = true → f = 0 ∨ dev.timerClock < f →
    exec (.setFrequency d f) s = .next { s with result := 0x00000004 }

/-! ### The commit engine (spec/41_commit_engine.md) -/

/-- DUTY_TO_COMPARE (R90, the spec's own decision D8): the scaled value, its bound, its corner cases, the source's one
point, and that it grows with the duty. -/
def Obligations.DutyToCompareScales : Prop :=
  ∀ duty duty' reload : Half,
    (dutyToCompare duty reload).toNat = duty.toNat * (reload.toNat + 1) / 65536 ∧
    (dutyToCompare duty reload).toNat < reload.toNat + 1 ∧
    dutyToCompare 0 reload = 0 ∧ dutyToCompare duty 0 = 0 ∧
    (reload.toNat % 2 = 1 → (dutyToCompare 32768 reload).toNat = (reload.toNat + 1) / 2) ∧
    (duty.toNat ≤ duty'.toNat → (dutyToCompare duty reload).toNat ≤ (dutyToCompare duty' reload).toNat)

/-- The configure branch (R92), for a channel the loop body is run on with `configure == 1`. -/
def Obligations.ConfigureBranchWrites : Prop :=
  ∀ (updateAll : Bool) (dev : Device) (total : Nat) (i : ChIdx),
    let c := dev.ch i
    c.selected updateAll = true → c.cfg.configure = true →
    ∃ dev' : Device, commitChannel updateAll (dev, total) i = (dev', total + 1) ∧
      dev'.ch i = { c with
        ocPwm := true
        ocInvert := c.cfg.invert
        ocPreload := true
        compare := dutyToCompare c.cfg.duty dev.reload
        chOutEn := true
        chcfg := (dev'.ch i).chcfg } ∧
      (dev'.ch i).cfg = { c.cfg with configure := false, update := false } ∧
      (∀ j, j ≠ i → dev'.ch j = dev.ch j) ∧ dev' = { dev with chs := dev'.chs }

/-- The cheap path (R93), for a channel the loop body is run on with `configure == 0`: nothing but `COMPARE` and `update`
is written. -/
def Obligations.CheapPathWritesOnlyCompare : Prop :=
  ∀ (updateAll : Bool) (dev : Device) (total : Nat) (i : ChIdx),
    let c := dev.ch i
    c.selected updateAll = true → c.cfg.configure = false →
    ∃ dev' : Device, commitChannel updateAll (dev, total) i = (dev', total) ∧
      dev'.ch i = { c with compare := dutyToCompare c.cfg.duty dev.reload, chcfg := (dev'.ch i).chcfg } ∧
      (dev'.ch i).cfg = { c.cfg with update := false } ∧
      (∀ j, j ≠ i → dev'.ch j = dev.ch j) ∧ dev' = { dev with chs := dev'.chs }

/-- The loop and its totals (R91, R94): a channel below `CH_COUNT` that meets the loop's three conditions is rewritten once,
every other channel is untouched; `configured_total` counts the selected channels whose `configure` flag is set;
`enabled_total` counts the records that are not `SENTINEL`; and
`configured_total <= enabled_total <= CH_COUNT`, under either counting rule (U9). -/
def Obligations.CommitLoopAndTotals : Prop :=
  ∀ (updateAll : Bool) (dev : Device),
    let r := commitLoop updateAll dev
    (∀ i : ChIdx, i.val < dev.nCh → (dev.ch i).selected updateAll = true →
      (r.1.ch i).compare.toNat = (dev.ch i).cfg.duty.toNat * (dev.reload.toNat + 1) / 65536 ∧
      (r.1.ch i).cfg = { (dev.ch i).cfg with update := false, configure := false }) ∧
    (∀ i : ChIdx, dev.nCh ≤ i.val ∨ (dev.ch i).selected updateAll = false → r.1.ch i = dev.ch i) ∧
    r.2 = (Finset.univ.filter fun i : ChIdx =>
      i.val < dev.nCh ∧ (dev.ch i).selected updateAll = true ∧ (dev.ch i).cfg.configure = true).card ∧
    enabledTotal .nonDisabled r.1 = (Finset.univ.filter fun i : ChIdx =>
      i.val < dev.nCh ∧ (dev.ch i).chcfg ≠ 0x0FFFFFFF).card ∧
    ∀ rule, r.2 ≤ enabledTotal rule r.1 ∧ enabledTotal rule r.1 ≤ dev.nCh

/-- The counter policy (R95): with no counted record the counter stops; on a cold start the counter is reset, the staged
values latch, `PENDING` is set if `FORCE_UPDATE_PENDS`, and the counter starts; else nothing. -/
def Obligations.CounterPolicyArms : Prop :=
  ∀ (s : State) (d : Nat) (updateAll : Bool) (dev : Device), s.dev? d = some dev →
    let r := commitLoop updateAll dev
    let enabledT := enabledTotal s.plat.countRule r.1
    let t := commit d updateAll s
    (enabledT = 0 → t.dev? d = some { r.1 with counterEn := false } ∧ t.outputs = s.outputs) ∧
    (enabledT ≠ 0 → enabledT = r.2 →
      t.dev? d = some { r.1.latch with
        pending := r.1.pending || s.plat.forceUpdatePends
        counterEn := true } ∧
      t.outputs = s.outputs ++ [.counterReset d]) ∧
    (enabledT ≠ 0 → enabledT ≠ r.2 → t.dev? d = some r.1 ∧ t.outputs = s.outputs)

/-- A newly added channel does not disturb a running one (R96(b)): enabling channel `ch` while another channel `a` is
enabled leaves the counter, every active copy and channel `a` alone, and resets no counter. -/
def Obligations.AddedChannelLeavesCounterAlone : Prop :=
  ∀ (s : State) (d ch : Byte) (duty : Half) (dev : Device) (i a : ChIdx),
    s.dev? d.toNat = some dev → dev.valid = true → dev.Inv →
    i.val = ch.toNat → i.val < dev.nCh → a ≠ i → a.val < dev.nCh → (dev.ch a).cfg.enabled = true →
    ∃ (t : State) (dev' : Device), exec (.enableDutyCycle d ch duty) s = .next t ∧ t.dev? d.toNat = some dev' ∧
      dev'.counterEn = dev.counterEn ∧ dev'.prescaleAct = dev.prescaleAct ∧ dev'.reloadAct = dev.reloadAct ∧
      (∀ j : ChIdx, (dev'.ch j).compareAct = (dev.ch j).compareAct) ∧ dev'.ch a = dev.ch a ∧
      t.outputs = s.outputs

/-- Cold start of one channel (R96(a), R95): enabling a freshly configured channel on an otherwise all-disabled device
latches every staged value of the slot (`TimerLatch`, spec/20_memory.md R47), resets the counter and starts it. -/
def Obligations.FirstEnableColdStarts : Prop :=
  ∀ (s : State) (d ch : Byte) (duty : Half) (dev : Device) (i : ChIdx),
    s.dev? d.toNat = some dev → dev.valid = true → i.val = ch.toNat → i.val < dev.nCh →
    (dev.ch i).cfg.configure = true → (∀ j : ChIdx, j ≠ i → (dev.ch j).chcfg = 0x0FFFFFFF) →
    ∃ (t : State) (dev' : Device), exec (.enableDutyCycle d ch duty) s = .next t ∧ t.dev? d.toNat = some dev' ∧
      dev'.counterEn = true ∧ dev'.prescaleAct = dev.prescale ∧ dev'.reloadAct = dev.reload ∧
      (∀ j : ChIdx, (dev'.ch j).compareAct = (dev'.ch j).compare) ∧
      dev'.pending = (dev.pending || s.plat.forceUpdatePends) ∧
      t.outputs = s.outputs ++ [.counterReset d.toNat]

/-! ### INIT and the channel commands (spec/44_channel_commands.md) -/

/-- INIT completes (R131, spec/10_state.md R36): on a slot that exists and is not valid, with a handle in the domain of
`ChCountOf` and `ClockOf`. -/
def Obligations.InitCompletes : Prop :=
  ∀ (s : State) (d : Byte) (h : Word) (dev : Device) (m : TimerModel),
    s.dev? d.toNat = some dev → dev.valid = false → h ≠ 0 → timerOf s.plat h = some m →
    ∃ (t : State) (dev' : Device), exec (.init d h) s = .next t ∧ t.result = 0x00000000 ∧ t.irqEn = true ∧
      t.rdata = s.rdata ∧ t.hstate = s.hstate ∧ t.dev? d.toNat = some dev' ∧
      dev' = { dev with
        valid := true, handle := h, chCount := m.chCount, timerClock := m.clock, counterEn := false
        chs := dev'.chs } ∧
      ∀ i : ChIdx, dev'.ch i = { dev.ch i with
        chcfg := 0x0FFFFFFF, cycleCount := 0, cycle := 0, cycleCb := 0, cycleData := 0, seqCb := 0, seqData := 0
        chOutEn := false }

/-- INIT's errors and its stuck case, in the order of its checks (R131, spec/60_exceptions.md R154,
spec/93_implementation_defined.md U6). -/
def Obligations.InitRejects : Prop :=
  ∀ (s : State) (d : Byte) (h : Word),
    ((∀ dev, s.dev? d.toNat = some dev → dev.valid = true) →
      exec (.init d h) s = .next { s with result := 0x00000001 }) ∧
    (∀ dev, s.dev? d.toNat = some dev → dev.valid = false →
      (h = 0 → exec (.init d h) s = .next { s with result := 0x00000002 }) ∧
      (h ≠ 0 → timerOf s.plat h = none → exec (.init d h) s = .fault .unreachablePeripheral))

/-- CONFIGURE_CHANNEL completes (R134): for a live slot, a channel below `CH_COUNT` and a pin-mux that accepts the move of
the pin (or no move). `configure` is set on a first configuration, a pin/af change or a polarity change and never cleared;
`duty`, `enabled`, `update` and every timer-port register are untouched. -/
def Obligations.ConfigureChannelCompletes : Prop :=
  ∀ (s : State) (d ch pin : Byte) (af : AltFn) (inv : Bool) (n ccb cdata scb sdata : Word) (dev : Device) (i : ChIdx),
    s.dev? d.toNat = some dev → dev.valid = true → i.val = ch.toNat → i.val < dev.nCh →
    (movePin (dev.ch i) pin af s).1 = .ok →
    ∃ (t : State) (dev' : Device),
      exec (.configureChannel d ch pin af inv n ccb cdata scb sdata) s = .next t ∧ t.result = 0x00000000 ∧
      t.dev? d.toNat = some dev' ∧ dev' = { dev with chs := dev'.chs } ∧
      (∀ j, j ≠ i → dev'.ch j = dev.ch j) ∧
      dev'.ch i = { dev.ch i with
        chcfg := (dev'.ch i).chcfg, cycleCount := n, cycle := n, cycleCb := ccb, cycleData := cdata, seqCb := scb
        seqData := sdata } ∧
      let old := (dev.ch i).cfg
      (dev'.ch i).cfg = { old with
        pin := pin, af := af, invert := inv
        configure := old.configure || decide ((dev.ch i).chcfg = 0x0FFFFFFF) || decide (pin ≠ old.pin) ||
          decide (af ≠ old.af) || decide (inv ≠ old.invert) }

/-- The pin-mux calls of CONFIGURE_CHANNEL (R134 steps 4 to 6, spec/20_memory.md R54, R151; the call order is the spec's
decision D20), whoever fixes the answers (log 2). Where neither pin nor af changes there is no call. Else, by whether the
record has a pin and whether the command gives one (`NOPIN` and `NOAF` give none): from none to none no call; from none to a
pin one `assign_pin` with `PULL_MODE`; from a pin to none one `unassign_pin` of the old pin; from a pin to a pin the release
first, then the assignment. The first failure ends the command with `PinAssignment` and every slot as before. -/
def Obligations.ConfigureMovesThePin : Prop :=
  ∀ (s : State) (d ch pin : Byte) (af : AltFn) (inv : Bool) (n ccb cdata scb sdata : Word) (dev : Device) (i : ChIdx),
    s.dev? d.toNat = some dev → dev.valid = true → i.val = ch.toNat → i.val < dev.nCh →
    ∃ t, exec (.configureChannel d ch pin af inv n ccb cdata scb sdata) s = .next t ∧
      let old := (dev.ch i).cfg
      let moves := pin ≠ old.pin ∨ af ≠ old.af
      let routed := pin ≠ 0xFF ∧ af ≠ 0xF
      let a := s.pinAnswerAt 0
      let b := s.pinAnswerAt 1
      (¬moves ∨ (old.pin = 0xFF ∧ ¬routed) →
        t.result = 0x00000000 ∧ t.outputs = s.outputs ∧ s.AnswersUsed t 0) ∧
      (moves → old.pin = 0xFF → routed →
        t.outputs = s.outputs ++ [.assignPin pin af s.plat.pullMode a] ∧ s.AnswersUsed t 1 ∧
        (a = .fail → t.result = 0x00000005 ∧ t.devices = s.devices) ∧
        (a = .ok → t.result = 0x00000000)) ∧
      (moves → old.pin ≠ 0xFF → ¬routed →
        t.outputs = s.outputs ++ [.unassignPin old.pin a] ∧ s.AnswersUsed t 1 ∧
        (a = .fail → t.result = 0x00000005 ∧ t.devices = s.devices) ∧
        (a = .ok → t.result = 0x00000000)) ∧
      (moves → old.pin ≠ 0xFF → routed →
        (a = .fail → t.result = 0x00000005 ∧ t.devices = s.devices ∧ s.AnswersUsed t 1 ∧
          t.outputs = s.outputs ++ [.unassignPin old.pin .fail]) ∧
        (a = .ok → b = .fail → t.result = 0x00000005 ∧ t.devices = s.devices ∧ s.AnswersUsed t 2 ∧
          t.outputs = s.outputs ++ [.unassignPin old.pin .ok, .assignPin pin af s.plat.pullMode .fail]) ∧
        (a = .ok → b = .ok → t.result = 0x00000000 ∧ s.AnswersUsed t 2 ∧
          t.outputs = s.outputs ++ [.unassignPin old.pin .ok, .assignPin pin af s.plat.pullMode .ok]))

/-- CONFIGURE_CHANNEL needs no COMMIT (R135): under the normative counting rule a `COMMIT(d, 0)` after it would change
nothing. -/
def Obligations.ConfigureNeedsNoCommit : Prop :=
  ∀ (s t : State) (d ch pin : Byte) (af : AltFn) (inv : Bool) (n ccb cdata scb sdata : Word),
    s.Inv → s.plat.countRule = .nonDisabled →
    exec (.configureChannel d ch pin af inv n ccb cdata scb sdata) s = .next t → t.result = 0x00000000 →
    commit d.toNat false t = t

/-- ENABLE_DUTY_CYCLE completes (R137, spec/41_commit_engine.md R91 to R93): for a live slot and a channel below
`CH_COUNT`. The compare value is written by the time the command returns; mode, polarity, preload and output enable are
written exactly where `configure` was set; the countdown and the callbacks are untouched; the counter is not stopped. -/
def Obligations.EnableDutyCycleCompletes : Prop :=
  ∀ (s : State) (d ch : Byte) (duty : Half) (dev : Device) (i : ChIdx),
    s.dev? d.toNat = some dev → dev.valid = true → i.val = ch.toNat → i.val < dev.nCh →
    ∃ (t : State) (dev' : Device), exec (.enableDutyCycle d ch duty) s = .next t ∧ t.result = 0x00000000 ∧
      t.dev? d.toNat = some dev' ∧
      let c := dev.ch i
      let c' := dev'.ch i
      c'.cfg = { c.cfg with duty := duty, enabled := true, update := false, configure := false } ∧
      c'.compare.toNat = duty.toNat * (dev.reload.toNat + 1) / 65536 ∧
      (c.cfg.configure = true →
        c'.ocPwm = true ∧ c'.ocInvert = c.cfg.invert ∧ c'.ocPreload = true ∧ c'.chOutEn = true) ∧
      (c.cfg.configure = false → c'.ocPwm = c.ocPwm ∧ c'.ocInvert = c.ocInvert ∧
        c'.ocPreload = c.ocPreload ∧ c'.chOutEn = c.chOutEn) ∧
      c'.cycleCount = c.cycleCount ∧ c'.cycle = c.cycle ∧ c'.cycleCb = c.cycleCb ∧ c'.cycleData = c.cycleData ∧
      c'.seqCb = c.seqCb ∧ c'.seqData = c.seqData ∧
      (dev'.counterEn = dev.counterEn ∨ dev'.counterEn = true)

/-- ENABLE_DUTY_CYCLE on a disabled record (R138, the spec's own decision D12): it succeeds, the record leaves the sentinel
with no pin, its commit takes the cheap path and does not start the counter. -/
def Obligations.EnableOfDisabledRecord : Prop :=
  ∀ (s : State) (d ch : Byte) (duty : Half) (dev : Device) (i : ChIdx),
    s.dev? d.toNat = some dev → dev.valid = true → i.val = ch.toNat → i.val < dev.nCh →
    (dev.ch i).chcfg = 0x0FFFFFFF → (∀ j : ChIdx, (dev.ch j).cfg.update = false) →
    ∃ (t : State) (dev' : Device), exec (.enableDutyCycle d ch duty) s = .next t ∧ t.result = 0x00000000 ∧
      t.outputs = s.outputs ∧ t.dev? d.toNat = some dev' ∧ dev'.counterEn = dev.counterEn ∧
      (dev'.ch i).cfg = { duty := duty, pin := 0xFF, af := 0xF, invert := false, enabled := true, update := false,
                          configure := false } ∧
      dev'.ch i = { dev.ch i with chcfg := (dev'.ch i).chcfg, compare := (dev'.ch i).compare } ∧
      (dev'.ch i).compare.toNat = duty.toNat * (dev.reload.toNat + 1) / 65536

/-- DISABLE completes (R139 to R141): for a live slot and a channel below `CH_COUNT`, between atomic steps. Whatever the
pin-mux answers, the record is `SENTINEL` and its output off, the rest of the channel and every other channel is as before,
and the counter stops when no record is left; under the normative counting rule it is as before when one is left. The one
port event is the call `unassign_pin` of the record's pin, none for `NOPIN` (spec/20_memory.md R54); its answer decides the
code only. -/
def Obligations.DisableCompletes : Prop :=
  ∀ (s : State) (d ch : Byte) (dev : Device) (i : ChIdx),
    s.dev? d.toNat = some dev → dev.valid = true → i.val = ch.toNat → i.val < dev.nCh →
    (∀ j : ChIdx, (dev.ch j).cfg.update = false) →
    ∃ (t : State) (dev' : Device), exec (.disable d ch) s = .next t ∧
      ((dev.ch i).cfg.pin = 0xFF → t.outputs = s.outputs ∧ s.AnswersUsed t 0 ∧ t.result = 0x00000000) ∧
      ((dev.ch i).cfg.pin ≠ 0xFF →
        t.outputs = s.outputs ++ [.unassignPin (dev.ch i).cfg.pin (s.pinAnswerAt 0)] ∧ s.AnswersUsed t 1 ∧
        (s.pinAnswerAt 0 = .ok → t.result = 0x00000000) ∧ (s.pinAnswerAt 0 = .fail → t.result = 0x00000005)) ∧
      t.dev? d.toNat = some dev' ∧
      dev'.ch i = { dev.ch i with chcfg := 0x0FFFFFFF, chOutEn := false } ∧
      (∀ j, j ≠ i → dev'.ch j = dev.ch j) ∧
      dev' = { dev with counterEn := dev'.counterEn, chs := dev'.chs } ∧
      ((∀ j : ChIdx, j.val < dev.nCh → j ≠ i → (dev.ch j).chcfg = 0x0FFFFFFF) → dev'.counterEn = false) ∧
      (s.plat.countRule = .nonDisabled →
        (∃ j : ChIdx, j.val < dev.nCh ∧ j ≠ i ∧ (dev.ch j).chcfg ≠ 0x0FFFFFFF) → dev'.counterEn = dev.counterEn)

/-- "calling `disable` on an already-disabled channel succeeds and leaves it disabled" (R139, R140): no pin-mux call is
made and no port event occurs, under either counting rule. -/
def Obligations.DisableIsIdempotent : Prop :=
  ∀ (s : State) (d ch : Byte) (dev : Device) (i : ChIdx),
    s.dev? d.toNat = some dev → dev.valid = true → i.val = ch.toNat → i.val < dev.nCh →
    (∀ j : ChIdx, (dev.ch j).cfg.update = false) → (dev.ch i).chcfg = 0x0FFFFFFF →
    ∃ (t : State) (dev' : Device), exec (.disable d ch) s = .next t ∧ t.result = 0x00000000 ∧
      t.outputs = s.outputs ∧ t.pinAnswers = s.pinAnswers ∧ t.pinDraws = s.pinDraws ∧
      t.dev? d.toNat = some dev' ∧ (dev'.ch i).chcfg = 0x0FFFFFFF ∧ (dev'.ch i).chOutEn = false ∧
      (∀ j, j ≠ i → dev'.ch j = dev.ch j)

/-! ### The queries (spec/43_queries.md) -/

/-- GET_CLOCK_FREQUENCY and GET_PERIOD_TICKS complete (R120, R121; reading the staged copies is the spec's decision D23):
`RDATA` and `RESULT` are written and nothing else. -/
def Obligations.ClockAndPeriodQueriesComplete : Prop :=
  ∀ (s : State) (d : Byte) (dev : Device), s.dev? d.toNat = some dev → dev.valid = true →
    (∃ v : Word, v.toNat = dev.timerClock.toNat / (dev.prescale.toNat + 1) ∧
      exec (.getClockFrequency d) s = .next { s with rdata := v, result := 0x00000000 }) ∧
    (∃ v : Word, v.toNat = dev.reload.toNat + 1 ∧
      exec (.getPeriodTicks d) s = .next { s with rdata := v, result := 0x00000000 })

/-- GET_RESOLUTION_BITS completes (R122): the bit length of the reload value, 0 for 0; `RDATA` and `RESULT` are written
and nothing else. -/
def Obligations.ResolutionQueryCompletes : Prop :=
  ∀ (s : State) (d : Byte) (dev : Device), s.dev? d.toNat = some dev → dev.valid = true →
    ∃ v : Word, exec (.getResolutionBits d) s = .next { s with rdata := v, result := 0x00000000 } ∧
      v.toNat ≤ 16 ∧ (dev.reload = 0 → v = 0) ∧
      (dev.reload ≠ 0 → 0 < v.toNat ∧ 2 ^ (v.toNat - 1) ≤ dev.reload.toNat ∧ dev.reload.toNat < 2 ^ v.toNat)

/-! ### Results and frames (spec/60_exceptions.md) -/

/-- The device check (R152, the spec's own decision D19): every command but INIT to a slot that does not exist or is not
valid returns `NoDevice` and does nothing else. -/
def Obligations.DeadSlotAnswersNoDevice : Prop :=
  ∀ (i : Instr) (s : State), (∀ d h, i ≠ .init d h) →
    (∀ dev, s.dev? i.dev.toNat = some dev → dev.valid = false) →
    exec i s = .next { s with result := 0x00000001 }

/-- The channel check (R153): on a live slot an index out of range returns `Channel` and does nothing else, whatever the
other operands. -/
def Obligations.ChannelOutOfRangeRejected : Prop :=
  ∀ (s : State) (d ch pin : Byte) (af : AltFn) (inv : Bool) (n ccb cdata scb sdata : Word) (duty : Half) (dev : Device),
    s.dev? d.toNat = some dev → dev.valid = true → dev.nCh ≤ ch.toNat →
    exec (.configureChannel d ch pin af inv n ccb cdata scb sdata) s = .next { s with result := 0x00000003 } ∧
    exec (.enableDutyCycle d ch duty) s = .next { s with result := 0x00000003 } ∧
    exec (.disable d ch) s = .next { s with result := 0x00000003 }

/-- Effect of an error on state (R151): a command that returns a code other than `OK` leaves all state of the block
unchanged except `RESULT`; the one exception is DISABLE returning `PinAssignment`, which has performed every step of
DISABLE_CH. The pin-mux calls made stay made: the record of port events only grows. -/
def Obligations.ErrorsLeaveTheBlock : Prop :=
  ∀ (i : Instr) (s t : State), exec i s = .next t → t.result ≠ 0x00000000 →
    s.outputs <+: t.outputs ∧
    (s.SameBlock { t with result := s.result } ∨
      ∃ (d ch : Byte) (dev : Device) (idx : ChIdx), i = .disable d ch ∧ s.dev? d.toNat = some dev ∧
        dev.valid = true ∧ idx.val = ch.toNat ∧ idx.val < dev.nCh ∧
        t = { (disableChannel d.toNat idx s).2 with result := 0x00000005 })

/-- The frame of every command (10_state.md R13, R31, R37, 20_memory.md R49, spec/43_queries.md R123): what each one
may write. -/
def Obligations.CommandFrame : Prop :=
  ∀ (i : Instr) (s t : State), exec i s = .next t →
    t = { s with
      result := t.result, rdata := t.rdata, devices := t.devices, irqEn := t.irqEn, pinAnswers := t.pinAnswers
      pinDraws := t.pinDraws, outputs := t.outputs } ∧
    t.nDev = s.nDev ∧
    (∀ e, e ≠ i.dev.toNat → t.dev? e = s.dev? e) ∧
    ((∀ d, i ≠ .getClockFrequency d) → (∀ d, i ≠ .getPeriodTicks d) → (∀ d, i ≠ .getResolutionBits d) →
      t.rdata = s.rdata) ∧
    ((∀ d h, i ≠ .init d h) → t.irqEn = s.irqEn) ∧
    ∀ dev, s.dev? i.dev.toNat = some dev → ∃ dev', t.dev? i.dev.toNat = some dev' ∧
      ((∀ d h, i ≠ .init d h) → dev'.valid = dev.valid ∧ dev'.handle = dev.handle ∧ dev'.chCount = dev.chCount ∧
        dev'.timerClock = dev.timerClock) ∧
      ((∀ d f, i ≠ .setFrequency d f) → dev'.prescale = dev.prescale ∧ dev'.reload = dev.reload) ∧
      (dev'.pending = dev.pending ∨ (s.plat.forceUpdatePends = true ∧ dev'.pending = true))

/-- The frame of the channel commands between atomic steps (R134, R137, R140, R141): every other channel of the slot is
as before but for its active compare value, which is as before or its own staged one; and what each command leaves of its
own channel. -/
def Obligations.ChannelCommandFrame : Prop :=
  ∀ (s t : State) (d ch : Byte) (dev : Device) (i : Instr),
    (i = .disable d ch ∨ (∃ duty, i = .enableDutyCycle d ch duty) ∨
      ∃ pin af inv n ccb cdata scb sdata, i = .configureChannel d ch pin af inv n ccb cdata scb sdata) →
    exec i s = .next t → s.dev? d.toNat = some dev → (∀ j : ChIdx, (dev.ch j).cfg.update = false) →
    ∃ dev', t.dev? d.toNat = some dev' ∧
      (∀ j : ChIdx, j.val ≠ ch.toNat →
        dev'.ch j = { dev.ch j with compareAct := (dev'.ch j).compareAct } ∧
        ((dev'.ch j).compareAct = (dev.ch j).compareAct ∨ (dev'.ch j).compareAct = (dev.ch j).compare)) ∧
      ∀ j : ChIdx, j.val = ch.toNat →
        ((∃ duty, i = .enableDutyCycle d ch duty) →
          (dev'.ch j).cycleCount = (dev.ch j).cycleCount ∧ (dev'.ch j).cycle = (dev.ch j).cycle ∧
          (dev'.ch j).cycleCb = (dev.ch j).cycleCb ∧ (dev'.ch j).cycleData = (dev.ch j).cycleData ∧
          (dev'.ch j).seqCb = (dev.ch j).seqCb ∧ (dev'.ch j).seqData = (dev.ch j).seqData) ∧
        (i = .disable d ch →
          dev'.ch j = { dev.ch j with chcfg := (dev'.ch j).chcfg, chOutEn := (dev'.ch j).chOutEn }) ∧
        ((∀ duty, i ≠ .enableDutyCycle d ch duty) → i ≠ .disable d ch →
          (dev'.ch j).compare = (dev.ch j).compare ∧ (dev'.ch j).compareAct = (dev.ch j).compareAct ∧
          (dev'.ch j).ocPwm = (dev.ch j).ocPwm ∧ (dev'.ch j).ocInvert = (dev.ch j).ocInvert ∧
          (dev'.ch j).ocPreload = (dev.ch j).ocPreload ∧ (dev'.ch j).chOutEn = (dev.ch j).chOutEn)

/-- A command is the same in both contexts (spec/44_channel_commands.md R130, spec/10_state.md R31): it neither reads nor
writes `HSTATE`. -/
def Obligations.CommandsIgnoreContext : Prop :=
  ∀ (i : Instr) (s : State) (h : HState),
    exec i (s.goto h) =
      match exec i s with
      | .next t => .next (t.goto h)
      | .fault r => .fault r
      | .refused r => .refused r

/-- Every command answers a next state on every state, but for INIT with a handle outside the domain of `ChCountOf` and
`ClockOf` (R131, spec/93_implementation_defined.md U6). -/
def Obligations.CommandsStopOnlyAtUnreachableInit : Prop :=
  ∀ (i : Instr) (s : State), (∃ t, exec i s = .next t) ∨
    (∃ d h, i = .init d h ∧ h ≠ 0 ∧ timerOf s.plat h = none ∧ exec i s = .fault .unreachablePeripheral)

/-- INIT is once-only and nothing undoes it (spec/70_reset_and_hazards.md R181, spec/10_state.md R11, R32): over any step
a valid slot stays valid with its handle, channel count and clock, and `IRQ_EN` stays set. It rests on the model's choice
that power-on is the start of a run and no input (log 21). That the platform and `N_DEV` never change is the model's own
clause: they are parameters held in the state (log 3). -/
def Obligations.SlotIdentityIsPermanent : Prop :=
  ∀ s t : State, step s = .next t →
    t.plat = s.plat ∧ t.nDev = s.nDev ∧ (s.irqEn = true → t.irqEn = true) ∧
    ∀ d dev, s.dev? d = some dev → dev.valid = true →
      ∃ dev', t.dev? d = some dev' ∧ dev'.valid = true ∧ dev'.handle = dev.handle ∧
        dev'.chCount = dev.chCount ∧ dev'.timerClock = dev.timerClock

/-! ### The timer and preload (spec/20_memory.md) -/

/-- The period-elapsed event (R48, R47): `TimerLatch(d)` and `PENDING[d] <- 1` on a valid slot whose counter runs; else it
cannot occur (the model's refusal, log 9). -/
def Obligations.PeriodElapsedLatchesAndPends : Prop :=
  ∀ (s : State) (d : Nat) (rest : List Input), s.hstate.working = false → s.inputs = .periodElapsed d :: rest →
    (∀ dev, s.dev? d = some dev → dev.valid = true → dev.counterEn = true →
      ∃ t dev', step s = .next t ∧ t = { s with inputs := rest, devices := t.devices } ∧
        t.dev? d = some dev' ∧ (∀ e, e ≠ d → t.dev? e = s.dev? e) ∧
        dev' = { dev with
          prescaleAct := dev.prescale, reloadAct := dev.reload, pending := true, chs := dev'.chs } ∧
        ∀ i : ChIdx, dev'.ch i = { dev.ch i with compareAct := (dev.ch i).compare }) ∧
    ((∀ dev, s.dev? d = some dev → dev.valid = false ∨ dev.counterEn = false) → step s = .refused .eventImpossible)

/-- The ordering guarantee of preload for commands (R50, R46, R52): over a command the active copies of a slot are
unchanged, or the command was a cold start of that slot (its `CounterReset` is among the new port events) and every active
copy equals its staged one. -/
def Obligations.StagedValuesWaitForALatch : Prop :=
  ∀ (i : Instr) (s t : State) (d : Nat) (dev dev' : Device),
    exec i s = .next t → s.dev? d = some dev → t.dev? d = some dev' →
    (dev'.prescaleAct = dev.prescaleAct ∧ dev'.reloadAct = dev.reloadAct ∧
      ∀ j : ChIdx, (dev'.ch j).compareAct = (dev.ch j).compareAct) ∨
    (.counterReset d ∈ t.outputs.drop s.outputs.length ∧ dev'.counterEn = true ∧
      dev'.prescaleAct = dev'.prescale ∧ dev'.reloadAct = dev'.reload ∧
      ∀ j : ChIdx, (dev'.ch j).compareAct = (dev'.ch j).compare)

/-- Coalesced events (spec/42_countdown_handler.md R112, spec/10_state.md R19): two events of a device before the handler
reads its flag leave the block as one does. -/
def Obligations.CoalescedEventsCountOnce : Prop :=
  ∀ (s t u : State) (d : Nat) (rest : List Input), s.hstate.working = false →
    s.inputs = .periodElapsed d :: .periodElapsed d :: rest →
    step s = .next t → step t = .next u → u = { t with inputs := rest }

/-! ### The handler (spec/42_countdown_handler.md, spec/60_exceptions.md) -/

/-- The transitions of `HSTATE` (R113, the spec's own table D14), row by row. -/
def Obligations.HandlerTransitionTable : Prop :=
  ∀ (s : State) (d : Nat),
    (s.hstate = .scan d →
      (d = s.nDev → handlerMicro s = { s with hstate := .idle }) ∧
      ∀ dev, s.dev? d = some dev →
        (dev.valid = false ∨ dev.pending = false → handlerMicro s = { s with hstate := .scan (d + 1) }) ∧
        (dev.valid = true → dev.pending = true →
          handlerMicro s = { s.setDev d { dev with pending := false } with hstate := .chan d 0 })) ∧
    ∀ (j : Nat) (dev : Device), s.hstate = .chan d j → s.dev? d = some dev →
      (j = dev.nCh → handlerMicro s = { s with hstate := .scan (d + 1) }) ∧
      ∀ i : ChIdx, i.val = j → j < dev.nCh →
        let c := dev.ch i
        let rearmed := s.setDev d (dev.setCh i { c with cycle := c.cycleCount })
        let counted := s.setDev d (dev.setCh i { c with cycle := if c.cycle = 0 then c.cycle else c.cycle - 1 })
        (c.cfg.enabled = false → handlerMicro s = { s with hstate := .chan d (j + 1) }) ∧
        (c.cfg.enabled = true → c.cycle = 1 → c.seqCb ≠ 0 →
          handlerMicro s = { rearmed with
            hstate := .cb d j .seq, outputs := s.outputs ++ [.callback .seq d j c.seqCb c.seqData] }) ∧
        (c.cfg.enabled = true → c.cycle = 1 → c.seqCb = 0 →
          handlerMicro s = { (disableChannel d i rearmed).2 with hstate := .chan d (j + 1) }) ∧
        (c.cfg.enabled = true → c.cycle ≠ 1 → c.cycleCb ≠ 0 →
          handlerMicro s = { counted with
            hstate := .cb d j .cycle, outputs := s.outputs ++ [.callback .cycle d j c.cycleCb c.cycleData] }) ∧
        (c.cfg.enabled = true → c.cycle ≠ 1 → c.cycleCb = 0 →
          handlerMicro s = { counted with hstate := .chan d (j + 1) })

/-- A non-terminal period (R106): `CYCLE` is decremented by exactly 1 when it is at least 2 and untouched when it is 0, and
the per-cycle callback, when registered, is invoked after that whether or not a decrement took place. -/
def Obligations.OrdinaryPeriodCountsDownAndCallsBack : Prop :=
  ∀ (s : State) (d : Nat) (dev : Device) (i : ChIdx),
    s.hstate = .chan d i.val → s.dev? d = some dev → i.val < dev.nCh →
    (dev.ch i).cfg.enabled = true → (dev.ch i).cycle ≠ 1 →
    let t := handlerMicro s
    ∃ dev', t.dev? d = some dev' ∧ dev' = { dev with chs := dev'.chs } ∧
      (∀ j, j ≠ i → dev'.ch j = dev.ch j) ∧
      dev'.ch i = { dev.ch i with cycle := (dev'.ch i).cycle } ∧
      ((dev.ch i).cycle = 0 → (dev'.ch i).cycle = 0) ∧
      (2 ≤ (dev.ch i).cycle.toNat → (dev'.ch i).cycle.toNat + 1 = (dev.ch i).cycle.toNat) ∧
      ((dev.ch i).cycleCb = 0 → t.hstate = .chan d (i.val + 1) ∧ t.outputs = s.outputs) ∧
      ((dev.ch i).cycleCb ≠ 0 → t.hstate = .cb d i.val .cycle ∧
        t.outputs = s.outputs ++ [.callback .cycle d i.val (dev.ch i).cycleCb (dev.ch i).cycleData])

/-- A terminal period (R104, R105, R141): `CYCLE` is re-armed first; with a sequence callback registered it is presented
and the record stays; without one the record becomes `SENTINEL` and its output is cut whatever the pin-mux answers, the
result is discarded, and the per-cycle callback is not invoked. The automatic disable makes the call `unassign_pin` of the
record's pin, none for `NOPIN` (spec/44_channel_commands.md R140 step 2); between atomic steps that is its one port event. -/
def Obligations.TerminalPeriodRearmsThenCallsOrDisables : Prop :=
  ∀ (s : State) (d : Nat) (dev : Device) (i : ChIdx),
    s.hstate = .chan d i.val → s.dev? d = some dev → i.val < dev.nCh →
    (dev.ch i).cfg.enabled = true → (dev.ch i).cycle = 1 →
    let t := handlerMicro s
    t.result = s.result ∧ t.rdata = s.rdata ∧
    ∃ dev', t.dev? d = some dev' ∧ (dev'.ch i).cycle = (dev.ch i).cycleCount ∧
      (dev'.ch i).cycleCount = (dev.ch i).cycleCount ∧ (dev'.ch i).cycleCb = (dev.ch i).cycleCb ∧
      (dev'.ch i).cycleData = (dev.ch i).cycleData ∧ (dev'.ch i).seqCb = (dev.ch i).seqCb ∧
      (dev'.ch i).seqData = (dev.ch i).seqData ∧
      ((dev.ch i).seqCb ≠ 0 → (dev'.ch i).chcfg = (dev.ch i).chcfg ∧ t.hstate = .cb d i.val .seq ∧ s.AnswersUsed t 0 ∧
        t.outputs = s.outputs ++ [.callback .seq d i.val (dev.ch i).seqCb (dev.ch i).seqData]) ∧
      ((dev.ch i).seqCb = 0 → (dev'.ch i).chcfg = 0x0FFFFFFF ∧ (dev'.ch i).chOutEn = false ∧
        t.hstate = .chan d (i.val + 1) ∧
        s.AnswersUsed t (if (dev.ch i).cfg.pin = 0xFF then 0 else 1) ∧
        s.outputs ++ s.releaseEvents (dev.ch i).cfg.pin <+: t.outputs ∧
        ((∀ j : ChIdx, (dev.ch j).cfg.update = false) →
          t.outputs = s.outputs ++ s.releaseEvents (dev.ch i).cfg.pin) ∧
        ∀ k e x h y, .callback k e x h y ∈ t.outputs.drop s.outputs.length → False)

/-- Handler entry (spec/60_exceptions.md R157, spec/42_countdown_handler.md R114): an invocation on the request begins
exactly when `HSTATE == IDLE` and the level of spec/20_memory.md R57 is 1; entry changes `HSTATE` alone, and its first
segment is one step. That an `interrupt` input is refused elsewhere is the model's refusal (log 9). The delay is arbitrary
but, under weak fairness, not for ever; the model's form of that is log 23: each input is used up in one step, and with no
input left a request that is up is taken by the next step. -/
def Obligations.InterruptEntry : Prop :=
  (∀ (s : State) (rest : List Input), s.hstate.working = false → s.inputs = .interrupt :: rest →
    (s.hstate = .idle → s.irqEn = true → (∃ dev ∈ s.devices, dev.valid = true ∧ dev.pending = true) →
      step s = .next (runSegment { s with inputs := rest, hstate := .scan 0 })) ∧
    ((s.hstate ≠ .idle ∨ s.irqEn = false ∨ ∀ dev ∈ s.devices, dev.valid = false ∨ dev.pending = false) →
      step s = .refused .interruptNotTaken)) ∧
  (∀ s : State, s.inputs = [] → s.hstate = .idle → s.irqEn = true →
    (∃ dev ∈ s.devices, dev.valid = true ∧ dev.pending = true) →
    step s = .next (runSegment { s with hstate := .scan 0 })) ∧
  ∀ s t : State, s.hstate.working = false → Sys2Proof.core.run s.inputs.length s = .next t → t.inputs = []

/-- The callee's return (R107, R113): `HSTATE` goes from `CB(d, j, k)` to `CHAN(d, j+1)` and the segment runs on. -/
def Obligations.CalleeReturnResumesAtNextChannel : Prop :=
  ∀ (s : State) (d j : Nat) (k : CallbackKind) (rest : List Input),
    s.hstate = .cb d j k → s.inputs = .calleeReturn :: rest →
    step s = .next (runSegment { s with inputs := rest, hstate := .chan d (j + 1) })

/-- Every segment ends at a callback window or in `IDLE` (R100, R113, R159): no step leaves the handler with a transition
of its own to make, from any state. -/
def Obligations.SegmentsEnd : Prop :=
  (∀ s : State, (runSegment s).hstate.working = false) ∧
  ∀ s t : State, step s = .next t → t.hstate.working = false

/-- A spurious invocation (spec/60_exceptions.md R161): where no valid slot is pending it scans every slot, writes
nothing, and returns. -/
def Obligations.SpuriousInvocationWritesNothing : Prop :=
  ∀ (s : State) (rest : List Input), s.hstate = .idle → s.irqEn = true →
    (∀ dev ∈ s.devices, dev.valid = false ∨ dev.pending = false) → s.inputs = .spurious :: rest →
    step s = .next { s with inputs := rest }

/-- The handler's state machine computes the pseudocode of IRQ_HANDLER (R100, R101 to R106): with no callback registered,
an invocation is one atomic step whose effect is the nested loops over devices and channels in ascending order. -/
def Obligations.InvocationIsTheNestedLoops : Prop :=
  ∀ (s : State) (rest : List Input), s.hstate = .idle → s.irqRequest = true → s.NoCallbacks →
    s.inputs = .interrupt :: rest → step s = .next (loopHandler { s with inputs := rest })

/-- Bounded sequence (R109): for an enabled channel with `CYCLE = CYCLE_COUNT = N >= 1` and no callbacks registered, after
`k < N` period-elapsed events, each served by its own invocation, `CYCLE` is `N - k` and the channel is enabled; after
exactly `N` it is re-armed to `N` and the channel is disabled. Of R109's forms with a callback registered this statement
says nothing: `Obligations.OrdinaryPeriodCountsDownAndCallsBack` and
`Obligations.TerminalPeriodRearmsThenCallsOrDisables` say what each of their periods does. -/
def Obligations.BoundedSequenceEndsAfterExactlyN : Prop :=
  ∀ (s : State) (d k : Nat) (dev : Device) (i : ChIdx) (rest : List Input),
    s.hstate = .idle → s.irqEn = true → s.NoCallbacks → s.dev? d = some dev → dev.valid = true →
    dev.counterEn = true → i.val < dev.nCh → (dev.ch i).cfg.enabled = true →
    (dev.ch i).cycle = (dev.ch i).cycleCount → (dev.ch i).cycleCount ≠ 0 →
    s.inputs = servedEvents d k ++ rest → k ≤ (dev.ch i).cycleCount.toNat →
    ∃ (t : State) (dev' : Device), Sys2Proof.core.run (2 * k) s = .next t ∧ t.hstate = .idle ∧ t.inputs = rest ∧
      t.dev? d = some dev' ∧
      (k < (dev.ch i).cycleCount.toNat → (dev'.ch i).cfg.enabled = true ∧
        (dev'.ch i).cycle.toNat = (dev.ch i).cycleCount.toNat - k) ∧
      (k = (dev.ch i).cycleCount.toNat → (dev'.ch i).chcfg = 0x0FFFFFFF ∧ (dev'.ch i).chOutEn = false ∧
        (dev'.ch i).cycle = (dev.ch i).cycleCount)

/-- Unbounded sequence (R110): over any handler segment an enabled channel with `CYCLE == 0` stays enabled with
`CYCLE == 0`, and no sequence callback is presented for it. -/
def Obligations.UnboundedSequenceNeverEnds : Prop :=
  ∀ (s : State) (d : Nat) (dev : Device) (i : ChIdx), s.dev? d = some dev →
    (dev.ch i).cfg.enabled = true → (dev.ch i).cycle = 0 →
    ∃ dev', (runSegment s).dev? d = some dev' ∧ (dev'.ch i).cfg.enabled = true ∧ (dev'.ch i).cycle = 0 ∧
      (dev'.ch i).cycleCount = (dev.ch i).cycleCount ∧
      ∀ h x, .callback .seq d i.val h x ∉ (runSegment s).outputs.drop s.outputs.length

/-- The frame of a handler segment (R101, R103 to R106, spec/10_state.md R10, R37): it writes no port register, not
`IRQ_EN` and no staged divisor; a slot keeps its identity; a slot that is not valid is untouched; a channel keeps its
`CYCLE_COUNT` and its callbacks. What a segment writes of a slot between atomic steps (R102, R105,
spec/44_channel_commands.md R140, spec/41_commit_engine.md R98): `PENDING` and `COUNTER_EN` are as before or 0, the active
copies are as before, a channel is as before but for `CYCLE`, `CHCFG` and `CH_OUT_EN`, and these last two are as before or
those of a disabled record with its output off. -/
def Obligations.HandlerSegmentFrame : Prop :=
  ∀ s : State,
    let t := runSegment s
    t = { s with
      devices := t.devices, hstate := t.hstate, pinAnswers := t.pinAnswers, pinDraws := t.pinDraws
      outputs := t.outputs } ∧
    t.nDev = s.nDev ∧
    ∀ d dev, s.dev? d = some dev → ∃ dev', t.dev? d = some dev' ∧
      dev'.valid = dev.valid ∧ dev'.handle = dev.handle ∧ dev'.chCount = dev.chCount ∧
      dev'.timerClock = dev.timerClock ∧ dev'.prescale = dev.prescale ∧ dev'.reload = dev.reload ∧
      (s.hstate.InRange s → dev.valid = false → dev' = dev) ∧
      ((∀ j : ChIdx, (dev.ch j).cfg.update = false) →
        (dev'.pending = dev.pending ∨ dev'.pending = false) ∧
        (dev'.counterEn = dev.counterEn ∨ dev'.counterEn = false) ∧
        dev'.prescaleAct = dev.prescaleAct ∧ dev'.reloadAct = dev.reloadAct ∧
        ∀ j : ChIdx,
          dev'.ch j = { dev.ch j with
            cycle := (dev'.ch j).cycle, chcfg := (dev'.ch j).chcfg, chOutEn := (dev'.ch j).chOutEn } ∧
          (((dev'.ch j).chcfg = (dev.ch j).chcfg ∧ (dev'.ch j).chOutEn = (dev.ch j).chOutEn) ∨
            ((dev'.ch j).chcfg = 0x0FFFFFFF ∧ (dev'.ch j).chOutEn = false))) ∧
      ∀ j : ChIdx, (dev'.ch j).cycleCount = (dev.ch j).cycleCount ∧ (dev'.ch j).cycleCb = (dev.ch j).cycleCb ∧
        (dev'.ch j).cycleData = (dev.ch j).cycleData ∧ (dev'.ch j).seqCb = (dev.ch j).seqCb ∧
        (dev'.ch j).seqData = (dev.ch j).seqData

/-! ### Invariants -/

/-- Every step keeps the invariants of the block (spec/10_state.md R22, R33(b), R33(d), spec/41_commit_engine.md R98,
spec/60_exceptions.md R153 and the others of `State.Inv`), whatever the environment does. -/
def Obligations.EveryStepKeepsTheInvariant : Prop :=
  ∀ s t : State, s.Inv → step s = .next t → t.Inv

/-- The invariants hold after power-on, whatever the unspecified registers hold (spec/10_state.md R36); and the model's
reset state is a power-on state. -/
def Obligations.PowerOnMeetsTheInvariant : Prop :=
  (∀ s : State, s.PoweredOn → s.Inv) ∧ State.reset.PoweredOn

/-- After power-on every command but INIT returns `NoDevice` and no invocation can begin (spec/70_reset_and_hazards.md
R180), whatever the unspecified registers hold. That it is so of a spurious invocation too is the model's reading of
spec/60_exceptions.md R161 and spec/10_state.md R32 (log 12), and that its step is refused is the model's (log 9). -/
def Obligations.PowerOnAcceptsOnlyInit : Prop :=
  ∀ s : State, s.PoweredOn →
    (∀ i : Instr, (∀ d h, i ≠ .init d h) → exec i s = .next { s with result := 0x00000001 }) ∧
    ∀ rest, (s.inputs = .interrupt :: rest ∨ s.inputs = .spurious :: rest) → step s = .refused .interruptNotTaken

/-- `pin` and `af` stay both sentinel or both assigned while issuers keep their obligation (spec/10_state.md R33(a),
spec/60_exceptions.md R165(c)): over every well-formed command and over every handler segment. -/
def Obligations.PinsStayConsistent : Prop :=
  (∀ (i : Instr) (s t : State), i.wellFormed = true → s.PinsConsistent → exec i s = .next t → t.PinsConsistent) ∧
  ∀ s : State, s.PinsConsistent → (runSegment s).PinsConsistent
end

