-- ==== Sys2Proof/Laws/Bits.lean ====
section
/-! SUPPORT. The packed words: CHCFG and its fields determine each other, a field written is the field read, and the
fields of the command words are read back as they were placed. -/

namespace Sys2Proof.Machine

@[simp] theorem ChCfg.ofWord_word (f : ChCfg) : ChCfg.ofWord f.word = f := by
  obtain ⟨duty, pin, af, a, b, c, d⟩ := f
  simp only [ChCfg.ofWord, ChCfg.word, ChCfg.mk.injEq]
  refine ⟨?_, ?_, ?_, ?_, ?_, ?_, ?_⟩
  case refine_1 | refine_2 | refine_3 =>
    apply BitVec.eq_of_getLsbD_eq
    intro i hi
    simp only [BitVec.getLsbD_extractLsb', BitVec.getLsbD_append]
    interval_cases i <;> simp
  all_goals simp only [BitVec.getLsbD_append]; simp

@[simp] theorem ChCfg.word_ofWord (w : Word) : (ChCfg.ofWord w).word = w := by
  apply BitVec.eq_of_getLsbD_eq
  intro i hi
  simp only [ChCfg.ofWord, ChCfg.word, BitVec.getLsbD_append, BitVec.getLsbD_extractLsb']
  interval_cases i <;> simp

theorem ChCfg.word_inj {f g : ChCfg} : f.word = g.word ↔ f = g :=
  ⟨fun h => by simpa using congrArg ChCfg.ofWord h, fun h => by rw [h]⟩

/-- The fields of `SENTINEL` (spec/10_state.md R21). -/
theorem ChCfg.ofWord_sentinel : ChCfg.ofWord Config.sentinel =
    { duty := 0xFFFF, pin := Config.noPin, af := Config.noAf, invert := false, enabled := false,
      update := false, configure := false } := by
  decide

@[simp] theorem Channel.cfg_setCfg (c : Channel) (f : ChCfg) : (c.setCfg f).cfg = f :=
  ChCfg.ofWord_word f

theorem Channel.chcfg_eq_word_cfg (c : Channel) : c.chcfg = c.cfg.word := (ChCfg.word_ofWord _).symm

theorem Channel.disabled_iff (c : Channel) : c.disabled = true ↔ c.chcfg = Config.sentinel := by
  simp [Channel.disabled]

/-- A disabled record is not enabled (spec/10_state.md R21, R22). -/
theorem Channel.enabled_not_disabled {c : Channel} (h : c.cfg.enabled = true) : c.disabled = false := by
  by_contra hd
  have hs := c.disabled_iff.mp (by simpa using hd)
  simp [Channel.cfg, hs, ChCfg.ofWord_sentinel] at h

/-- A record whose `configure` flag is set is not disabled (spec/10_state.md R21, R22). -/
theorem Channel.configure_not_disabled {c : Channel} (h : c.cfg.configure = true) : c.disabled = false := by
  by_contra hd
  have hs := c.disabled_iff.mp (by simpa using hd)
  simp [Channel.cfg, hs, ChCfg.ofWord_sentinel] at h

end Sys2Proof.Machine

namespace Sys2Proof

/-! ### Command words -/

section CommandWords

variable (op dev ch : Byte) (a0 a1 a2 a3 a4 a5 : Word)

@[simp] theorem Command.op_cmdWord : (Command.mk (cmdWord op dev ch) a0 a1 a2 a3 a4 a5).op = op := by
  apply BitVec.eq_of_getLsbD_eq
  intro i hi
  simp only [Command.op, cmdWord, BitVec.getLsbD_extractLsb', BitVec.getLsbD_append]
  interval_cases i <;> simp

@[simp] theorem Command.dev_cmdWord : (Command.mk (cmdWord op dev ch) a0 a1 a2 a3 a4 a5).dev = dev := by
  apply BitVec.eq_of_getLsbD_eq
  intro i hi
  simp only [Command.dev, cmdWord, BitVec.getLsbD_extractLsb', BitVec.getLsbD_append]
  interval_cases i <;> simp

@[simp] theorem Command.ch_cmdWord : (Command.mk (cmdWord op dev ch) a0 a1 a2 a3 a4 a5).ch = ch := by
  apply BitVec.eq_of_getLsbD_eq
  intro i hi
  simp only [Command.ch, cmdWord, BitVec.getLsbD_extractLsb', BitVec.getLsbD_append]
  interval_cases i <;> simp

@[simp] theorem Command.zero_cmdWord : (Command.mk (cmdWord op dev ch) a0 a1 a2 a3 a4 a5).zero = 0 := by
  apply BitVec.eq_of_getLsbD_eq
  intro i hi
  simp only [Command.zero, cmdWord, BitVec.getLsbD_extractLsb', BitVec.getLsbD_append]
  interval_cases i <;> simp

end CommandWords

/-- A command word is made of its four fields (spec/30_encoding.md R61). -/
theorem Command.cmd_eq (c : Command) : c.cmd = c.zero ++ c.ch ++ c.dev ++ c.op := by
  apply BitVec.eq_of_getLsbD_eq
  intro i hi
  simp only [Command.zero, Command.ch, Command.dev, Command.op, BitVec.getLsbD_extractLsb',
    BitVec.getLsbD_append]
  interval_cases i <;> simp

theorem readWord_wordBytes (w : Word) (rest : List Byte) : readWord (wordBytes w ++ rest) = some (w, rest) := by
  have h : w.extractLsb' 24 8 ++ w.extractLsb' 16 8 ++ w.extractLsb' 8 8 ++ w.extractLsb' 0 8 = w := by
    apply BitVec.eq_of_getLsbD_eq
    intro i hi
    simp only [BitVec.getLsbD_extractLsb', BitVec.getLsbD_append]
    interval_cases i <;> simp
  simp [readWord, wordBytes, h]

/-- Reading the bytes of a command gives the command and the bytes after it (spec/20_memory.md R42). -/
theorem readCommand_bytes (c : Command) (rest : List Byte) : readCommand (c.bytes ++ rest) = some (c, rest) := by
  simp [readCommand, Command.bytes, Command.words, readWord_wordBytes]

end Sys2Proof
end

