-- ==== Sys2Proof/Laws/State.lean ====
section
/-! SUPPORT. One lemma per field per named update of a record, each true by rfl, and the laws of indexed access: a slot
written is the slot read, every other slot is as before. -/

namespace Sys2Proof.Machine

/-! ### State -/

@[simp] theorem State.setDev_plat (s : State) (d : Nat) (dev : Device) : (s.setDev d dev).plat = s.plat := rfl
@[simp] theorem State.setDev_cmd (s : State) (d : Nat) (dev : Device) : (s.setDev d dev).cmd = s.cmd := rfl
@[simp] theorem State.setDev_arg0 (s : State) (d : Nat) (dev : Device) : (s.setDev d dev).arg0 = s.arg0 := rfl
@[simp] theorem State.setDev_arg1 (s : State) (d : Nat) (dev : Device) : (s.setDev d dev).arg1 = s.arg1 := rfl
@[simp] theorem State.setDev_arg2 (s : State) (d : Nat) (dev : Device) : (s.setDev d dev).arg2 = s.arg2 := rfl
@[simp] theorem State.setDev_arg3 (s : State) (d : Nat) (dev : Device) : (s.setDev d dev).arg3 = s.arg3 := rfl
@[simp] theorem State.setDev_arg4 (s : State) (d : Nat) (dev : Device) : (s.setDev d dev).arg4 = s.arg4 := rfl
@[simp] theorem State.setDev_arg5 (s : State) (d : Nat) (dev : Device) : (s.setDev d dev).arg5 = s.arg5 := rfl
@[simp] theorem State.setDev_result (s : State) (d : Nat) (dev : Device) : (s.setDev d dev).result = s.result := rfl
@[simp] theorem State.setDev_rdata (s : State) (d : Nat) (dev : Device) : (s.setDev d dev).rdata = s.rdata := rfl
@[simp] theorem State.setDev_devices (s : State) (d : Nat) (dev : Device) : (s.setDev d dev).devices = s.devices.set d dev := rfl
@[simp] theorem State.setDev_hstate (s : State) (d : Nat) (dev : Device) : (s.setDev d dev).hstate = s.hstate := rfl
@[simp] theorem State.setDev_irqEn (s : State) (d : Nat) (dev : Device) : (s.setDev d dev).irqEn = s.irqEn := rfl
@[simp] theorem State.setDev_pinAnswers (s : State) (d : Nat) (dev : Device) : (s.setDev d dev).pinAnswers = s.pinAnswers := rfl
@[simp] theorem State.setDev_pinDraws (s : State) (d : Nat) (dev : Device) : (s.setDev d dev).pinDraws = s.pinDraws := rfl
@[simp] theorem State.setDev_inputs (s : State) (d : Nat) (dev : Device) : (s.setDev d dev).inputs = s.inputs := rfl
@[simp] theorem State.setDev_outputs (s : State) (d : Nat) (dev : Device) : (s.setDev d dev).outputs = s.outputs := rfl

@[simp] theorem State.goto_plat (s : State) (h : HState) : (s.goto h).plat = s.plat := rfl
@[simp] theorem State.goto_cmd (s : State) (h : HState) : (s.goto h).cmd = s.cmd := rfl
@[simp] theorem State.goto_arg0 (s : State) (h : HState) : (s.goto h).arg0 = s.arg0 := rfl
@[simp] theorem State.goto_arg1 (s : State) (h : HState) : (s.goto h).arg1 = s.arg1 := rfl
@[simp] theorem State.goto_arg2 (s : State) (h : HState) : (s.goto h).arg2 = s.arg2 := rfl
@[simp] theorem State.goto_arg3 (s : State) (h : HState) : (s.goto h).arg3 = s.arg3 := rfl
@[simp] theorem State.goto_arg4 (s : State) (h : HState) : (s.goto h).arg4 = s.arg4 := rfl
@[simp] theorem State.goto_arg5 (s : State) (h : HState) : (s.goto h).arg5 = s.arg5 := rfl
@[simp] theorem State.goto_result (s : State) (h : HState) : (s.goto h).result = s.result := rfl
@[simp] theorem State.goto_rdata (s : State) (h : HState) : (s.goto h).rdata = s.rdata := rfl
@[simp] theorem State.goto_devices (s : State) (h : HState) : (s.goto h).devices = s.devices := rfl
@[simp] theorem State.goto_hstate (s : State) (h : HState) : (s.goto h).hstate = h := rfl
@[simp] theorem State.goto_irqEn (s : State) (h : HState) : (s.goto h).irqEn = s.irqEn := rfl
@[simp] theorem State.goto_pinAnswers (s : State) (h : HState) : (s.goto h).pinAnswers = s.pinAnswers := rfl
@[simp] theorem State.goto_pinDraws (s : State) (h : HState) : (s.goto h).pinDraws = s.pinDraws := rfl
@[simp] theorem State.goto_inputs (s : State) (h : HState) : (s.goto h).inputs = s.inputs := rfl
@[simp] theorem State.goto_outputs (s : State) (h : HState) : (s.goto h).outputs = s.outputs := rfl

@[simp] theorem State.emit_plat (s : State) (o : Output) : (s.emit o).plat = s.plat := rfl
@[simp] theorem State.emit_cmd (s : State) (o : Output) : (s.emit o).cmd = s.cmd := rfl
@[simp] theorem State.emit_arg0 (s : State) (o : Output) : (s.emit o).arg0 = s.arg0 := rfl
@[simp] theorem State.emit_arg1 (s : State) (o : Output) : (s.emit o).arg1 = s.arg1 := rfl
@[simp] theorem State.emit_arg2 (s : State) (o : Output) : (s.emit o).arg2 = s.arg2 := rfl
@[simp] theorem State.emit_arg3 (s : State) (o : Output) : (s.emit o).arg3 = s.arg3 := rfl
@[simp] theorem State.emit_arg4 (s : State) (o : Output) : (s.emit o).arg4 = s.arg4 := rfl
@[simp] theorem State.emit_arg5 (s : State) (o : Output) : (s.emit o).arg5 = s.arg5 := rfl
@[simp] theorem State.emit_result (s : State) (o : Output) : (s.emit o).result = s.result := rfl
@[simp] theorem State.emit_rdata (s : State) (o : Output) : (s.emit o).rdata = s.rdata := rfl
@[simp] theorem State.emit_devices (s : State) (o : Output) : (s.emit o).devices = s.devices := rfl
@[simp] theorem State.emit_hstate (s : State) (o : Output) : (s.emit o).hstate = s.hstate := rfl
@[simp] theorem State.emit_irqEn (s : State) (o : Output) : (s.emit o).irqEn = s.irqEn := rfl
@[simp] theorem State.emit_pinAnswers (s : State) (o : Output) : (s.emit o).pinAnswers = s.pinAnswers := rfl
@[simp] theorem State.emit_pinDraws (s : State) (o : Output) : (s.emit o).pinDraws = s.pinDraws := rfl
@[simp] theorem State.emit_inputs (s : State) (o : Output) : (s.emit o).inputs = s.inputs := rfl
@[simp] theorem State.emit_outputs (s : State) (o : Output) : (s.emit o).outputs = s.outputs ++ [o] := rfl

/-! ### Device -/

@[simp] theorem Device.setCh_valid (dev : Device) (i : ChIdx) (c : Channel) : (dev.setCh i c).valid = dev.valid := rfl
@[simp] theorem Device.setCh_handle (dev : Device) (i : ChIdx) (c : Channel) : (dev.setCh i c).handle = dev.handle := rfl
@[simp] theorem Device.setCh_chCount (dev : Device) (i : ChIdx) (c : Channel) : (dev.setCh i c).chCount = dev.chCount := rfl
@[simp] theorem Device.setCh_timerClock (dev : Device) (i : ChIdx) (c : Channel) : (dev.setCh i c).timerClock = dev.timerClock := rfl
@[simp] theorem Device.setCh_prescale (dev : Device) (i : ChIdx) (c : Channel) : (dev.setCh i c).prescale = dev.prescale := rfl
@[simp] theorem Device.setCh_reload (dev : Device) (i : ChIdx) (c : Channel) : (dev.setCh i c).reload = dev.reload := rfl
@[simp] theorem Device.setCh_prescaleAct (dev : Device) (i : ChIdx) (c : Channel) : (dev.setCh i c).prescaleAct = dev.prescaleAct := rfl
@[simp] theorem Device.setCh_reloadAct (dev : Device) (i : ChIdx) (c : Channel) : (dev.setCh i c).reloadAct = dev.reloadAct := rfl
@[simp] theorem Device.setCh_counterEn (dev : Device) (i : ChIdx) (c : Channel) : (dev.setCh i c).counterEn = dev.counterEn := rfl
@[simp] theorem Device.setCh_pending (dev : Device) (i : ChIdx) (c : Channel) : (dev.setCh i c).pending = dev.pending := rfl
@[simp] theorem Device.setCh_chs (dev : Device) (i : ChIdx) (c : Channel) : (dev.setCh i c).chs = dev.chs.set i c := rfl

@[simp] theorem Device.latch_valid (dev : Device)  : (dev.latch).valid = dev.valid := rfl
@[simp] theorem Device.latch_handle (dev : Device)  : (dev.latch).handle = dev.handle := rfl
@[simp] theorem Device.latch_chCount (dev : Device)  : (dev.latch).chCount = dev.chCount := rfl
@[simp] theorem Device.latch_timerClock (dev : Device)  : (dev.latch).timerClock = dev.timerClock := rfl
@[simp] theorem Device.latch_prescale (dev : Device)  : (dev.latch).prescale = dev.prescale := rfl
@[simp] theorem Device.latch_reload (dev : Device)  : (dev.latch).reload = dev.reload := rfl
@[simp] theorem Device.latch_prescaleAct (dev : Device)  : (dev.latch).prescaleAct = dev.prescale := rfl
@[simp] theorem Device.latch_reloadAct (dev : Device)  : (dev.latch).reloadAct = dev.reload := rfl
@[simp] theorem Device.latch_counterEn (dev : Device)  : (dev.latch).counterEn = dev.counterEn := rfl
@[simp] theorem Device.latch_pending (dev : Device)  : (dev.latch).pending = dev.pending := rfl
@[simp] theorem Device.latch_chs (dev : Device)  : (dev.latch).chs = dev.chs.map Channel.latch := rfl

@[simp] theorem Device.periodElapsed_valid (dev : Device)  : (dev.periodElapsed).valid = dev.valid := rfl
@[simp] theorem Device.periodElapsed_handle (dev : Device)  : (dev.periodElapsed).handle = dev.handle := rfl
@[simp] theorem Device.periodElapsed_chCount (dev : Device)  : (dev.periodElapsed).chCount = dev.chCount := rfl
@[simp] theorem Device.periodElapsed_timerClock (dev : Device)  : (dev.periodElapsed).timerClock = dev.timerClock := rfl
@[simp] theorem Device.periodElapsed_prescale (dev : Device)  : (dev.periodElapsed).prescale = dev.prescale := rfl
@[simp] theorem Device.periodElapsed_reload (dev : Device)  : (dev.periodElapsed).reload = dev.reload := rfl
@[simp] theorem Device.periodElapsed_prescaleAct (dev : Device)  : (dev.periodElapsed).prescaleAct = dev.prescale := rfl
@[simp] theorem Device.periodElapsed_reloadAct (dev : Device)  : (dev.periodElapsed).reloadAct = dev.reload := rfl
@[simp] theorem Device.periodElapsed_counterEn (dev : Device)  : (dev.periodElapsed).counterEn = dev.counterEn := rfl
@[simp] theorem Device.periodElapsed_pending (dev : Device)  : (dev.periodElapsed).pending = true := rfl
@[simp] theorem Device.periodElapsed_chs (dev : Device)  : (dev.periodElapsed).chs = dev.chs.map Channel.latch := rfl

@[simp] theorem Device.init_valid (dev : Device) (h : Word) (m : TimerModel) : (dev.init h m).valid = true := rfl
@[simp] theorem Device.init_handle (dev : Device) (h : Word) (m : TimerModel) : (dev.init h m).handle = h := rfl
@[simp] theorem Device.init_chCount (dev : Device) (h : Word) (m : TimerModel) : (dev.init h m).chCount = m.chCount := rfl
@[simp] theorem Device.init_timerClock (dev : Device) (h : Word) (m : TimerModel) : (dev.init h m).timerClock = m.clock := rfl
@[simp] theorem Device.init_prescale (dev : Device) (h : Word) (m : TimerModel) : (dev.init h m).prescale = dev.prescale := rfl
@[simp] theorem Device.init_reload (dev : Device) (h : Word) (m : TimerModel) : (dev.init h m).reload = dev.reload := rfl
@[simp] theorem Device.init_prescaleAct (dev : Device) (h : Word) (m : TimerModel) : (dev.init h m).prescaleAct = dev.prescaleAct := rfl
@[simp] theorem Device.init_reloadAct (dev : Device) (h : Word) (m : TimerModel) : (dev.init h m).reloadAct = dev.reloadAct := rfl
@[simp] theorem Device.init_counterEn (dev : Device) (h : Word) (m : TimerModel) : (dev.init h m).counterEn = false := rfl
@[simp] theorem Device.init_pending (dev : Device) (h : Word) (m : TimerModel) : (dev.init h m).pending = dev.pending := rfl
@[simp] theorem Device.init_chs (dev : Device) (h : Word) (m : TimerModel) : (dev.init h m).chs = dev.chs.map Channel.init := rfl

/-! ### Channel -/

@[simp] theorem Channel.setCfg_chcfg (c : Channel) (f : ChCfg) : (c.setCfg f).chcfg = f.word := rfl
@[simp] theorem Channel.setCfg_cycleCount (c : Channel) (f : ChCfg) : (c.setCfg f).cycleCount = c.cycleCount := rfl
@[simp] theorem Channel.setCfg_cycle (c : Channel) (f : ChCfg) : (c.setCfg f).cycle = c.cycle := rfl
@[simp] theorem Channel.setCfg_cycleCb (c : Channel) (f : ChCfg) : (c.setCfg f).cycleCb = c.cycleCb := rfl
@[simp] theorem Channel.setCfg_cycleData (c : Channel) (f : ChCfg) : (c.setCfg f).cycleData = c.cycleData := rfl
@[simp] theorem Channel.setCfg_seqCb (c : Channel) (f : ChCfg) : (c.setCfg f).seqCb = c.seqCb := rfl
@[simp] theorem Channel.setCfg_seqData (c : Channel) (f : ChCfg) : (c.setCfg f).seqData = c.seqData := rfl
@[simp] theorem Channel.setCfg_compare (c : Channel) (f : ChCfg) : (c.setCfg f).compare = c.compare := rfl
@[simp] theorem Channel.setCfg_compareAct (c : Channel) (f : ChCfg) : (c.setCfg f).compareAct = c.compareAct := rfl
@[simp] theorem Channel.setCfg_ocPwm (c : Channel) (f : ChCfg) : (c.setCfg f).ocPwm = c.ocPwm := rfl
@[simp] theorem Channel.setCfg_ocInvert (c : Channel) (f : ChCfg) : (c.setCfg f).ocInvert = c.ocInvert := rfl
@[simp] theorem Channel.setCfg_ocPreload (c : Channel) (f : ChCfg) : (c.setCfg f).ocPreload = c.ocPreload := rfl
@[simp] theorem Channel.setCfg_chOutEn (c : Channel) (f : ChCfg) : (c.setCfg f).chOutEn = c.chOutEn := rfl

@[simp] theorem Channel.latch_chcfg (c : Channel)  : (c.latch).chcfg = c.chcfg := rfl
@[simp] theorem Channel.latch_cycleCount (c : Channel)  : (c.latch).cycleCount = c.cycleCount := rfl
@[simp] theorem Channel.latch_cycle (c : Channel)  : (c.latch).cycle = c.cycle := rfl
@[simp] theorem Channel.latch_cycleCb (c : Channel)  : (c.latch).cycleCb = c.cycleCb := rfl
@[simp] theorem Channel.latch_cycleData (c : Channel)  : (c.latch).cycleData = c.cycleData := rfl
@[simp] theorem Channel.latch_seqCb (c : Channel)  : (c.latch).seqCb = c.seqCb := rfl
@[simp] theorem Channel.latch_seqData (c : Channel)  : (c.latch).seqData = c.seqData := rfl
@[simp] theorem Channel.latch_compare (c : Channel)  : (c.latch).compare = c.compare := rfl
@[simp] theorem Channel.latch_compareAct (c : Channel)  : (c.latch).compareAct = c.compare := rfl
@[simp] theorem Channel.latch_ocPwm (c : Channel)  : (c.latch).ocPwm = c.ocPwm := rfl
@[simp] theorem Channel.latch_ocInvert (c : Channel)  : (c.latch).ocInvert = c.ocInvert := rfl
@[simp] theorem Channel.latch_ocPreload (c : Channel)  : (c.latch).ocPreload = c.ocPreload := rfl
@[simp] theorem Channel.latch_chOutEn (c : Channel)  : (c.latch).chOutEn = c.chOutEn := rfl

@[simp] theorem Channel.clear_chcfg (c : Channel)  : (c.clear).chcfg = Config.sentinel := rfl
@[simp] theorem Channel.clear_cycleCount (c : Channel)  : (c.clear).cycleCount = c.cycleCount := rfl
@[simp] theorem Channel.clear_cycle (c : Channel)  : (c.clear).cycle = c.cycle := rfl
@[simp] theorem Channel.clear_cycleCb (c : Channel)  : (c.clear).cycleCb = c.cycleCb := rfl
@[simp] theorem Channel.clear_cycleData (c : Channel)  : (c.clear).cycleData = c.cycleData := rfl
@[simp] theorem Channel.clear_seqCb (c : Channel)  : (c.clear).seqCb = c.seqCb := rfl
@[simp] theorem Channel.clear_seqData (c : Channel)  : (c.clear).seqData = c.seqData := rfl
@[simp] theorem Channel.clear_compare (c : Channel)  : (c.clear).compare = c.compare := rfl
@[simp] theorem Channel.clear_compareAct (c : Channel)  : (c.clear).compareAct = c.compareAct := rfl
@[simp] theorem Channel.clear_ocPwm (c : Channel)  : (c.clear).ocPwm = c.ocPwm := rfl
@[simp] theorem Channel.clear_ocInvert (c : Channel)  : (c.clear).ocInvert = c.ocInvert := rfl
@[simp] theorem Channel.clear_ocPreload (c : Channel)  : (c.clear).ocPreload = c.ocPreload := rfl
@[simp] theorem Channel.clear_chOutEn (c : Channel)  : (c.clear).chOutEn = false := rfl

/-! ### Indexed access -/

section Access

variable {α : Type}

@[simp] theorem Quad.get_set_same (q : Quad α) (i : ChIdx) (a : α) : (q.set i a).get i = a := by
  fin_cases i <;> rfl

theorem Quad.get_set_ne (q : Quad α) {i j : ChIdx} (h : j ≠ i) (a : α) : (q.set i a).get j = q.get j := by
  fin_cases i <;> fin_cases j <;> first | rfl | exact absurd rfl h

theorem Quad.get_set (q : Quad α) (i j : ChIdx) (a : α) :
    (q.set i a).get j = if j = i then a else q.get j := by
  split
  · subst j; exact q.get_set_same i a
  · exact q.get_set_ne ‹_› a

@[simp] theorem Quad.get_map (f : α → α) (q : Quad α) (i : ChIdx) : (q.map f).get i = f (q.get i) := by
  fin_cases i <;> rfl

@[simp] theorem Quad.set_get_self (q : Quad α) (i : ChIdx) : q.set i (q.get i) = q := by
  fin_cases i <;> rfl

@[simp] theorem Quad.set_set_same (q : Quad α) (i : ChIdx) (a b : α) : (q.set i a).set i b = q.set i b := by
  fin_cases i <;> rfl

end Access

@[simp] theorem Device.ch_setCh_same (dev : Device) (i : ChIdx) (c : Channel) : (dev.setCh i c).ch i = c :=
  Quad.get_set_same _ _ _

theorem Device.ch_setCh_ne (dev : Device) {i j : ChIdx} (h : j ≠ i) (c : Channel) : (dev.setCh i c).ch j = dev.ch j :=
  Quad.get_set_ne _ h _

theorem Device.ch_setCh (dev : Device) (i j : ChIdx) (c : Channel) :
    (dev.setCh i c).ch j = if j = i then c else dev.ch j :=
  Quad.get_set _ _ _ _

@[simp] theorem Device.setCh_ch_self (dev : Device) (i : ChIdx) : dev.setCh i (dev.ch i) = dev := by
  simp [Device.setCh, Device.ch]

@[simp] theorem Device.ch_latch (dev : Device) (i : ChIdx) : dev.latch.ch i = (dev.ch i).latch :=
  Quad.get_map _ _ _

@[simp] theorem Device.ch_periodElapsed (dev : Device) (i : ChIdx) : dev.periodElapsed.ch i = (dev.ch i).latch :=
  Quad.get_map _ _ _

@[simp] theorem Device.ch_init (dev : Device) (h : Word) (m : TimerModel) (i : ChIdx) :
    (dev.init h m).ch i = (dev.ch i).init :=
  Quad.get_map _ _ _

@[simp] theorem Device.nCh_setCh (dev : Device) (i : ChIdx) (c : Channel) : (dev.setCh i c).nCh = dev.nCh := rfl

@[simp] theorem Device.nCh_latch (dev : Device) : dev.latch.nCh = dev.nCh := rfl

@[simp] theorem Device.indices_setCh (dev : Device) (i : ChIdx) (c : Channel) :
    (dev.setCh i c).indices = dev.indices := rfl

theorem Device.nCh_pos (dev : Device) : 0 < dev.nCh := by
  unfold Device.nCh; cases dev.chCount <;> decide

theorem Device.nCh_le (dev : Device) : dev.nCh ≤ 4 := by
  unfold Device.nCh; cases dev.chCount <;> decide

theorem Device.mem_indices {dev : Device} {i : ChIdx} : i ∈ dev.indices ↔ i.val < dev.nCh := by
  have : i ∈ [(0 : ChIdx), 1, 2, 3] := by fin_cases i <;> simp
  simp only [Device.indices, List.mem_filter, decide_eq_true_eq, this, true_and]

theorem Device.indices_nodup (dev : Device) : dev.indices.Nodup :=
  List.Nodup.filter _ (by decide)

theorem State.dev?_setDev_same {s : State} {d : Nat} {dev0 : Device} (h : s.dev? d = some dev0) (dev : Device) :
    (s.setDev d dev).dev? d = some dev := by
  have : d < s.devices.length := by
    by_contra hn
    simp [State.dev?, List.getElem?_eq_none (Nat.le_of_not_lt hn)] at h
  simp [State.dev?, this]

theorem State.dev?_setDev_ne (s : State) {d e : Nat} (h : e ≠ d) (dev : Device) :
    (s.setDev d dev).dev? e = s.dev? e := by
  simp [State.dev?, List.getElem?_set_ne (Ne.symm h)]

@[simp] theorem State.dev?_goto (s : State) (h : HState) (d : Nat) : (s.goto h).dev? d = s.dev? d := rfl

@[simp] theorem State.dev?_emit (s : State) (o : Output) (d : Nat) : (s.emit o).dev? d = s.dev? d := rfl

@[simp] theorem State.nDev_setDev (s : State) (d : Nat) (dev : Device) : (s.setDev d dev).nDev = s.nDev := by
  simp [State.nDev]

@[simp] theorem State.setDev_setDev_same (s : State) (d : Nat) (a b : Device) :
    (s.setDev d a).setDev d b = s.setDev d b := by
  simp [State.setDev]

theorem State.setDev_self {s : State} {d : Nat} {dev : Device} (h : s.dev? d = some dev) : s.setDev d dev = s := by
  have : s.devices.set d dev = s.devices := List.ext_getElem? fun n => by
    by_cases hn : n = d
    · subst n; exact (State.dev?_setDev_same h dev).trans h.symm
    · exact s.dev?_setDev_ne hn dev
  cases s; simp_all [State.setDev]

theorem State.dev?_lt {s : State} {d : Nat} {dev : Device} (h : s.dev? d = some dev) : d < s.nDev :=
  (List.getElem?_eq_some_iff.mp h).1

theorem State.dev?_of_lt {s : State} {d : Nat} (h : d < s.nDev) : ∃ dev, s.dev? d = some dev :=
  ⟨_, List.getElem?_eq_getElem h⟩

theorem State.dev?_none_iff {s : State} {d : Nat} : s.dev? d = none ↔ s.nDev ≤ d :=
  List.getElem?_eq_none_iff

end Sys2Proof.Machine
end

