-- ==== Sys2Proof/Laws/Ops.lean ====
section
/-! SUPPORT. One lemma for each shared operation that says what it can do: the pin-mux port, the operands of a command,
the end of a command. -/

namespace Sys2Proof.Machine

/-! ### The end of a command -/

theorem finish_eq (code : ResultCode) (s : State) : finish code s = .next { s with result := code.word } := rfl

theorem finish_eq_next {code : ResultCode} {s t : State} :
    finish code s = .next t ↔ t = { s with result := code.word } := by
  simp [finish, eq_comm]

theorem ResultCode.word_inj {a b : ResultCode} : a.word = b.word ↔ a = b := by
  cases a <;> cases b <;> decide

/-! ### The same block -/

theorem State.SameBlock.refl (s : State) : s.SameBlock s := rfl

theorem State.SameBlock.trans {s t u : State} (h : s.SameBlock t) (k : t.SameBlock u) : s.SameBlock u := by
  unfold State.SameBlock at *; rw [k, h]

section SameBlock

variable {s t : State} (h : s.SameBlock t)
include h

theorem State.SameBlock.plat_eq : t.plat = s.plat := by rw [h]
theorem State.SameBlock.cmd_eq : t.cmd = s.cmd := by rw [h]
theorem State.SameBlock.rdata_eq : t.rdata = s.rdata := by rw [h]
theorem State.SameBlock.devices_eq : t.devices = s.devices := by rw [h]
theorem State.SameBlock.hstate_eq : t.hstate = s.hstate := by rw [h]
theorem State.SameBlock.irqEn_eq : t.irqEn = s.irqEn := by rw [h]
theorem State.SameBlock.inputs_eq : t.inputs = s.inputs := by rw [h]
theorem State.SameBlock.dev?_eq (d : Nat) : t.dev? d = s.dev? d := by unfold State.dev?; rw [h.devices_eq]

end SameBlock

/-! ### The pin-mux port -/

/-- A draw changes nothing of the block, and records no port event. -/
theorem drawPin_spec (s : State) : s.SameBlock (drawPin s).2 ∧ (drawPin s).2.outputs = s.outputs := by
  unfold drawPin State.SameBlock; split <;> exact ⟨rfl, rfl⟩

/-! #### Which answers were used (log 2) -/

theorem State.AnswersUsed.refl (s : State) : s.AnswersUsed s 0 := by simp [State.AnswersUsed]

theorem State.AnswersUsed.trans {s t u : State} {m n : Nat} (h : s.AnswersUsed t m) (k : t.AnswersUsed u n) :
    s.AnswersUsed u (m + n) := by
  obtain ⟨h1, h2⟩ := h
  obtain ⟨k1, k2⟩ := k
  refine ⟨by rw [k1, h1, List.drop_drop], ?_⟩
  rw [k2, h1, h2, List.length_drop]
  omega

/-- The answers from `t` on are those of `s` after the ones used. -/
theorem State.AnswersUsed.pinAnswerAt_eq {s t : State} {m : Nat} (h : s.AnswersUsed t m) (n : Nat) :
    t.pinAnswerAt n = s.pinAnswerAt (m + n) := by
  obtain ⟨h1, h2⟩ := h
  unfold State.pinAnswerAt
  rw [h1, h2, List.getElem?_drop, List.length_drop]
  by_cases hk : m + n < s.pinAnswers.length
  · rw [List.getElem?_eq_getElem hk]; rfl
  · rw [List.getElem?_eq_none (by omega)]
    simp only [Option.getD_none]
    congr 1
    omega

/-- A draw gives the next answer and uses it. -/
theorem drawPin_answer (s : State) : (drawPin s).1 = s.pinAnswerAt 0 ∧ s.AnswersUsed (drawPin s).2 1 := by
  unfold drawPin State.pinAnswerAt State.AnswersUsed
  split <;> rename_i h <;> simp [h]

/-- `unassign_pin` of a pin is one call with the next answer; of `NOPIN` it is none (spec/20_memory.md R54). -/
theorem unassignPin_events (pin : Byte) (s : State) :
    (unassignPin pin s).2.outputs = s.outputs ++ s.releaseEvents pin ∧
    (pin = Config.noPin → (unassignPin pin s).1 = .ok ∧ s.AnswersUsed (unassignPin pin s).2 0) ∧
    (pin ≠ Config.noPin → (unassignPin pin s).1 = s.pinAnswerAt 0 ∧ s.AnswersUsed (unassignPin pin s).2 1) := by
  unfold unassignPin State.releaseEvents
  by_cases h : pin = Config.noPin
  · simp [h, State.AnswersUsed.refl]
  · obtain ⟨ha, hu⟩ := drawPin_answer s
    simp only [h, false_implies, true_and, ne_eq, not_false_eq_true, true_implies]
    exact ⟨by simp [State.emit, (drawPin_spec s).2, ha], ha, hu⟩

/-- `assign_pin` of a pin is one call with the next answer; with `NOPIN` or `NOAF` it is none (spec/20_memory.md R54). -/
theorem assignPin_events (pin : Byte) (af : AltFn) (s : State) :
    (pin = Config.noPin ∨ af = Config.noAf → assignPin pin af s = (.ok, s)) ∧
    (¬(pin = Config.noPin ∨ af = Config.noAf) →
      (assignPin pin af s).1 = s.pinAnswerAt 0 ∧ s.AnswersUsed (assignPin pin af s).2 1 ∧
      (assignPin pin af s).2.outputs = s.outputs ++ [.assignPin pin af s.plat.pullMode (s.pinAnswerAt 0)]) := by
  unfold assignPin
  by_cases h : pin = Config.noPin ∨ af = Config.noAf
  · simp [h]
  · obtain ⟨ha, hu⟩ := drawPin_answer s
    simp only [h, false_implies, true_and, not_false_eq_true, true_implies]
    exact ⟨ha, hu, by simp [State.emit, (drawPin_spec s).2, ha]⟩

/-! #### What the calls leave alone -/

/-- `unassign_pin` changes nothing of the block, and only adds port events (spec/20_memory.md R54). -/
theorem unassignPin_spec (pin : Byte) (s : State) :
    s.SameBlock (unassignPin pin s).2 ∧ s.outputs <+: (unassignPin pin s).2.outputs := by
  unfold unassignPin
  split
  · exact ⟨rfl, List.prefix_refl _⟩
  · obtain ⟨h, ho⟩ := drawPin_spec s
    exact ⟨h.trans rfl, by simp [ho]⟩

/-- `assign_pin` changes nothing of the block, and only adds port events (spec/20_memory.md R54). -/
theorem assignPin_spec (pin : Byte) (af : AltFn) (s : State) :
    s.SameBlock (assignPin pin af s).2 ∧ s.outputs <+: (assignPin pin af s).2.outputs := by
  unfold assignPin
  split
  · exact ⟨rfl, List.prefix_refl _⟩
  · obtain ⟨h, ho⟩ := drawPin_spec s
    exact ⟨h.trans rfl, by simp [ho]⟩

/-- Moving a pin changes nothing of the block, and only adds port events (spec/44_channel_commands.md R134). -/
theorem movePin_spec (c : Channel) (pin : Byte) (af : AltFn) (s : State) :
    s.SameBlock (movePin c pin af s).2 ∧ s.outputs <+: (movePin c pin af s).2.outputs := by
  unfold movePin
  split
  · obtain ⟨h, ho⟩ := unassignPin_spec c.cfg.pin s
    dsimp only
    split
    · exact ⟨h, ho⟩
    · obtain ⟨h', ho'⟩ := assignPin_spec pin af (unassignPin c.cfg.pin s).2
      exact ⟨h.trans h', ho.trans ho'⟩
  · exact ⟨rfl, List.prefix_refl _⟩

/-! ### Operands -/

/-- What the device check lets through (spec/60_exceptions.md R152). -/
theorem liveDevice_eq_some {s : State} {d : Byte} {dev : Device} :
    liveDevice s d = some dev ↔ s.dev? d.toNat = some dev ∧ dev.valid = true := by
  unfold liveDevice
  split <;> rename_i h
  · split <;> simp_all <;> rintro rfl <;> simp_all
  · simp [h]

/-- What the channel check lets through (spec/60_exceptions.md R153). -/
theorem channelIndex_eq_some {dev : Device} {ch : Byte} {i : ChIdx} :
    channelIndex dev ch = some i ↔ i.val = ch.toNat ∧ ch.toNat < dev.nCh := by
  have := dev.nCh_le
  unfold channelIndex
  split
  · split
    · simp only [Option.some.injEq, Fin.ext_iff]; constructor <;> intro h <;> simp_all
    · simp; omega
  · simp; omega

theorem channelIndex_eq_none {dev : Device} {ch : Byte} : channelIndex dev ch = none ↔ dev.nCh ≤ ch.toNat := by
  have := dev.nCh_le
  unfold channelIndex
  split
  · split <;> simp <;> omega
  · simp; omega

/-- The device check reads nothing but the slots. -/
theorem liveDevice_congr {s t : State} (h : t.devices = s.devices) (d : Byte) : liveDevice t d = liveDevice s d := by
  unfold liveDevice State.dev?; rw [h]

end Sys2Proof.Machine
end

