-- ==== Sys2Proof/Laws/Commit.lean ====
section
/-! SUPPORT. What COMMIT does (spec/41_commit_engine.md R91 to R95): the loop channel by channel, `configured_total`, the
counter policy, and COMMIT as an operation on the state. -/

namespace Sys2Proof.Machine

/-- What one run of the loop body makes of a channel (R91 to R93). -/
def Channel.committed (updateAll : Bool) (reload : Half) (c : Channel) : Channel :=
  if c.selected updateAll then if c.cfg.configure then c.configureBranch reload else c.cheapPath reload else c

/-- The channel takes the configure branch (R91, R92). -/
def Channel.configures (updateAll : Bool) (c : Channel) : Bool := c.selected updateAll && c.cfg.configure

theorem commitChannel_eq (u : Bool) (acc : Device × Nat) (i : ChIdx) :
    commitChannel u acc i =
      (acc.1.setCh i ((acc.1.ch i).committed u acc.1.reload), acc.2 + ((acc.1.ch i).configures u).toNat) := by
  unfold commitChannel Channel.committed Channel.configures
  dsimp only
  split
  · split <;> simp_all
  · simp_all

theorem commitChannel_foldl (u : Bool) (l : List ChIdx) (hl : l.Nodup) (acc : Device × Nat) :
    let r := l.foldl (commitChannel u) acc
    r.1 = { acc.1 with chs := r.1.chs } ∧
    (∀ j, r.1.ch j = if j ∈ l then (acc.1.ch j).committed u acc.1.reload else acc.1.ch j) ∧
    r.2 = acc.2 + l.countP fun j => (acc.1.ch j).configures u := by
  induction l generalizing acc with
  | nil => simp
  | cons i l ih =>
    obtain ⟨hi, hl⟩ := List.nodup_cons.mp hl
    obtain ⟨h1, h2, h3⟩ := ih hl (commitChannel u acc i)
    simp only [List.foldl_cons]
    rw [commitChannel_eq] at h1 h2 h3 ⊢
    refine ⟨?_, ?_, ?_⟩
    · rw [h1]; rfl
    · intro j
      rw [h2 j]
      by_cases hj : j = i
      · subst j; simp [hi]
      · simp [hj, Device.ch_setCh_ne _ hj]
    · rw [h3]
      have : l.countP (fun j => ((acc.1.setCh i ((acc.1.ch i).committed u acc.1.reload)).ch j).configures u)
          = l.countP fun j => (acc.1.ch j).configures u := by
        apply List.countP_congr
        intro j hj
        rw [Device.ch_setCh_ne _ (by rintro rfl; exact hi hj)]
      rw [this, List.countP_cons]
      cases (acc.1.ch i).configures u <;> simp
      omega

/-- The loop writes nothing of the slot but its channels (R91). -/
theorem commitLoop_frame (u : Bool) (dev : Device) :
    (commitLoop u dev).1 = { dev with chs := (commitLoop u dev).1.chs } :=
  (commitChannel_foldl u dev.indices dev.indices_nodup (dev, 0)).1

/-- The loop on one channel (R91). -/
theorem commitLoop_ch (u : Bool) (dev : Device) (i : ChIdx) :
    (commitLoop u dev).1.ch i =
      if i.val < dev.nCh then (dev.ch i).committed u dev.reload else dev.ch i := by
  have := (commitChannel_foldl u dev.indices dev.indices_nodup (dev, 0)).2.1 i
  simp only [Device.mem_indices] at this
  exact this

/-- `configured_total` (R91, R94). -/
theorem commitLoop_total (u : Bool) (dev : Device) :
    (commitLoop u dev).2 = dev.indices.countP fun i => (dev.ch i).configures u := by
  have := (commitChannel_foldl u dev.indices dev.indices_nodup (dev, 0)).2.2
  simp only [Nat.zero_add] at this
  exact this

theorem commitLoop_nCh (u : Bool) (dev : Device) : (commitLoop u dev).1.nCh = dev.nCh := by
  rw [commitLoop_frame]; rfl

theorem commitLoop_indices (u : Bool) (dev : Device) : (commitLoop u dev).1.indices = dev.indices := by
  rw [commitLoop_frame]; rfl

section Committed

variable (u : Bool) (r : Half) (c : Channel)

theorem Channel.committed_of_not (h : c.selected u = false) : c.committed u r = c := by
  simp [Channel.committed, h]

@[simp] theorem Channel.committed_cycle : (c.committed u r).cycle = c.cycle := by
  unfold Channel.committed; split <;> [split <;> rfl; rfl]

@[simp] theorem Channel.committed_cycleCount : (c.committed u r).cycleCount = c.cycleCount := by
  unfold Channel.committed; split <;> [split <;> rfl; rfl]

@[simp] theorem Channel.committed_cycleCb : (c.committed u r).cycleCb = c.cycleCb := by
  unfold Channel.committed; split <;> [split <;> rfl; rfl]

@[simp] theorem Channel.committed_cycleData : (c.committed u r).cycleData = c.cycleData := by
  unfold Channel.committed; split <;> [split <;> rfl; rfl]

@[simp] theorem Channel.committed_seqCb : (c.committed u r).seqCb = c.seqCb := by
  unfold Channel.committed; split <;> [split <;> rfl; rfl]

@[simp] theorem Channel.committed_seqData : (c.committed u r).seqData = c.seqData := by
  unfold Channel.committed; split <;> [split <;> rfl; rfl]

@[simp] theorem Channel.committed_compareAct : (c.committed u r).compareAct = c.compareAct := by
  unfold Channel.committed; split <;> [split <;> rfl; rfl]

/-- The fields of CHCFG after the loop body: a selected channel has `update` and `configure` clear (R92, R93). -/
theorem Channel.committed_cfg : (c.committed u r).cfg =
    if c.selected u then { c.cfg with update := false, configure := false } else c.cfg := by
  unfold Channel.committed
  split
  · split
    · simp [Channel.cfg, Channel.configureBranch]
    · simp_all [Channel.cfg, Channel.cheapPath]
  · rfl

@[simp] theorem Channel.committed_enabled : (c.committed u r).cfg.enabled = c.cfg.enabled := by
  rw [Channel.committed_cfg]; split <;> rfl

/-- COMMIT neither disables a record nor brings one back (spec/10_state.md R22). -/
@[simp] theorem Channel.committed_disabled : (c.committed u r).disabled = c.disabled := by
  by_cases h : c.selected u = true
  · have he : c.cfg.enabled = true := by
      simp only [Channel.selected, Bool.and_eq_true] at h; exact h.1.2
    rw [Channel.enabled_not_disabled he, Channel.enabled_not_disabled (by simpa using he)]
  · simp [Channel.committed, h]

end Committed

/-! ### The totals -/

theorem enabledTotal_commitLoop (rule : CountRule) (u : Bool) (dev : Device) :
    enabledTotal rule (commitLoop u dev).1 = enabledTotal rule dev := by
  unfold enabledTotal
  rw [commitLoop_indices]
  apply List.countP_congr
  intro i hi
  rw [commitLoop_ch, if_pos (Device.mem_indices.mp hi)]
  cases rule <;> simp [countsRecord]

theorem enabledTotal_eq_zero {rule : CountRule} {dev : Device} :
    enabledTotal rule dev = 0 ↔ ∀ i : ChIdx, i.val < dev.nCh → countsRecord rule (dev.ch i) = false := by
  simp [enabledTotal, List.countP_eq_zero, Device.mem_indices]

/-- A counted record is non-disabled, under either counting rule. -/
theorem not_disabled_of_counted {rule : CountRule} {c : Channel} (h : countsRecord rule c = true) :
    c.disabled = false := by
  cases rule
  · simpa [countsRecord] using h
  · exact Channel.enabled_not_disabled h

/-! ### COMMIT -/

/-- The device after COMMIT, by the counter policy (R95). -/
theorem commitDevice_cases (p : Platform) (u : Bool) (dev : Device) :
    let r := commitLoop u dev
    let e := enabledTotal p.countRule dev
    (e = 0 ∧ commitDevice p u dev = ({ r.1 with counterEn := false }, false)) ∨
    (e ≠ 0 ∧ e = r.2 ∧ commitDevice p u dev = (r.1.restart p.forceUpdatePends, true)) ∨
    (e ≠ 0 ∧ e ≠ r.2 ∧ commitDevice p u dev = (r.1, false)) := by
  simp only [commitDevice, enabledTotal_commitLoop, counterPolicy, coldStart]
  by_cases h0 : enabledTotal p.countRule dev = 0
  · simp [h0]
  · by_cases h1 : enabledTotal p.countRule dev = (commitLoop u dev).2 <;> simp [h0, h1]
    simp_all

@[simp] theorem Device.ch_restart (f : Bool) (dev : Device) (i : ChIdx) : (dev.restart f).ch i = (dev.ch i).latch :=
  Quad.get_map _ _ _

/-- The registers of the slot no commit writes (R91 to R95). -/
theorem commitDevice_frame (p : Platform) (u : Bool) (dev : Device) :
    let r := (commitDevice p u dev).1
    r.valid = dev.valid ∧ r.handle = dev.handle ∧ r.chCount = dev.chCount ∧ r.timerClock = dev.timerClock ∧
    r.prescale = dev.prescale ∧ r.reload = dev.reload := by
  have hf := commitLoop_frame u dev
  obtain ⟨-, h⟩ | ⟨-, -, h⟩ | ⟨-, -, h⟩ := commitDevice_cases p u dev <;> simp only [h] <;> rw [hf] <;>
    exact ⟨rfl, rfl, rfl, rfl, rfl, rfl⟩

/-- A channel after COMMIT: what the loop makes of it, and its active compare value (R91 to R95). -/
theorem commitDevice_ch (p : Platform) (u : Bool) (dev : Device) (i : ChIdx) :
    (commitDevice p u dev).1.ch i =
      { (commitLoop u dev).1.ch i with compareAct := ((commitDevice p u dev).1.ch i).compareAct } := by
  obtain ⟨-, h⟩ | ⟨-, -, h⟩ | ⟨-, -, h⟩ := commitDevice_cases p u dev <;> simp only [h]
  · rfl
  · rw [Device.ch_restart]; rfl

/-- COMMIT on the state: the slot is replaced, a cold start records `CounterReset` (R91, R95). -/
theorem commit_eq {s : State} {d : Nat} {dev : Device} (u : Bool) (h : s.dev? d = some dev) :
    commit d u s = { s with
      devices := s.devices.set d (commitDevice s.plat u dev).1
      outputs := s.outputs ++ if (commitDevice s.plat u dev).2 then [.counterReset d] else [] } := by
  simp only [commit, h]
  split <;> simp [State.setDev, State.emit]

theorem commit_none {s : State} {d : Nat} (u : Bool) (h : s.dev? d = none) : commit d u s = s := by
  simp [commit, h]

/-- COMMIT writes the slots and the record of port events, and nothing else (R91). -/
theorem commit_frame (d : Nat) (u : Bool) (s : State) :
    commit d u s = { s with devices := (commit d u s).devices, outputs := (commit d u s).outputs } := by
  cases h : s.dev? d with
  | none => rw [commit_none u h]
  | some dev => rw [commit_eq u h]

theorem commit_dev?_same {s : State} {d : Nat} {dev : Device} (u : Bool) (h : s.dev? d = some dev) :
    (commit d u s).dev? d = some (commitDevice s.plat u dev).1 := by
  rw [commit_eq u h]
  exact State.dev?_setDev_same h _

theorem commit_dev?_ne {s : State} {d e : Nat} (u : Bool) (he : e ≠ d) : (commit d u s).dev? e = s.dev? e := by
  cases h : s.dev? d with
  | none => rw [commit_none u h]
  | some dev => rw [commit_eq u h]; exact s.dev?_setDev_ne he _

@[simp] theorem commit_nDev (d : Nat) (u : Bool) (s : State) : (commit d u s).nDev = s.nDev := by
  cases h : s.dev? d with
  | none => rw [commit_none u h]
  | some dev => rw [commit_eq u h]; simp [State.nDev]

end Sys2Proof.Machine
end

