-- ==== Sys2Proof/Laws/Decode.lean ====
section
/-! SUPPORT. What the decoder can answer (spec/30_encoding.md R64, R66), and that the fields of `ARG0` are read as they were
placed (R62, R63). -/

namespace Sys2Proof

section Arg0

variable (cmd a1 a2 a3 a4 a5 : Word)

@[simp] theorem Command.duty_dutyWord (u : Half) : (Command.mk cmd (dutyWord u) a1 a2 a3 a4 a5).duty = u := by
  apply BitVec.eq_of_getLsbD_eq
  intro i hi
  simp only [Command.duty, dutyWord, BitVec.getLsbD_extractLsb', BitVec.getLsbD_append]
  interval_cases i <;> simp

@[simp] theorem Command.dutyZero_dutyWord (u : Half) :
    (Command.mk cmd (dutyWord u) a1 a2 a3 a4 a5).dutyZero = 0 := by
  apply BitVec.eq_of_getLsbD_eq
  intro i hi
  simp only [Command.dutyZero, dutyWord, BitVec.getLsbD_extractLsb', BitVec.getLsbD_append]
  interval_cases i <;> simp

variable (pin : Byte) (af : AltFn) (inv : Bool)

@[simp] theorem Command.pin_configWord :
    (Command.mk cmd (configWord pin af inv) a1 a2 a3 a4 a5).pin = pin := by
  apply BitVec.eq_of_getLsbD_eq
  intro i hi
  simp only [Command.pin, configWord, BitVec.getLsbD_extractLsb', BitVec.getLsbD_append]
  interval_cases i <;> simp

@[simp] theorem Command.af_configWord :
    (Command.mk cmd (configWord pin af inv) a1 a2 a3 a4 a5).af = af := by
  apply BitVec.eq_of_getLsbD_eq
  intro i hi
  simp only [Command.af, configWord, BitVec.getLsbD_extractLsb', BitVec.getLsbD_append]
  interval_cases i <;> simp

@[simp] theorem Command.inverted_configWord :
    (Command.mk cmd (configWord pin af inv) a1 a2 a3 a4 a5).inverted = inv := by
  simp only [Command.inverted, configWord, BitVec.getLsbD_append]
  simp

@[simp] theorem Command.configZero_configWord :
    (Command.mk cmd (configWord pin af inv) a1 a2 a3 a4 a5).configZero = 0 := by
  apply BitVec.eq_of_getLsbD_eq
  intro i hi
  simp only [Command.configZero, configWord, BitVec.getLsbD_extractLsb', BitVec.getLsbD_append]
  interval_cases i <;> simp

end Arg0

/-- `ARG0` of a legal format U word is its duty alone. -/
theorem Command.dutyWord_duty (c : Command) (h : c.dutyZero = 0) : dutyWord c.duty = c.arg0 := by
  rw [dutyWord, ← h]
  apply BitVec.eq_of_getLsbD_eq
  intro i hi
  simp only [Command.duty, Command.dutyZero, BitVec.getLsbD_extractLsb', BitVec.getLsbD_append]
  interval_cases i <;> simp

/-- `ARG0` of a legal format K word is its three operands alone. -/
theorem Command.configWord_fields (c : Command) (h : c.configZero = 0) : configWord c.pin c.af c.inverted = c.arg0 := by
  rw [configWord, ← h]
  apply BitVec.eq_of_getLsbD_eq
  intro i hi
  simp only [Command.pin, Command.af, Command.inverted, Command.configZero, BitVec.getLsbD_extractLsb',
    BitVec.getLsbD_append]
  interval_cases i <;> simp

/-- The `CMD` word of a command whose top byte is 0. -/
theorem Command.cmd_eq_cmdWord (c : Command) (op : Byte) (hz : c.zero = 0) (ho : c.op = op) :
    c.cmd = cmdWord op c.dev c.ch := by
  rw [c.cmd_eq, hz, ho]
  rfl

/-- The fields of the words as arithmetic. -/
theorem Command.fields_toNat (c : Command) :
    c.zero.toNat = c.cmd.toNat / 16777216 ∧ c.op.toNat = c.cmd.toNat % 256 ∧
    c.ch.toNat = c.cmd.toNat / 65536 % 256 ∧ c.dutyZero.toNat = c.arg0.toNat / 65536 ∧
    c.configZero.toNat = c.arg0.toNat / 8192 := by
  have := c.cmd.isLt
  have := c.arg0.isLt
  simp only [Command.zero, Command.op, Command.ch, Command.dutyZero, Command.configZero,
    BitVec.extractLsb'_toNat, Nat.shiftRight_eq_div_pow]
  refine ⟨?_, ?_, ?_, ?_, ?_⟩ <;> norm_num <;> omega

/-- What the decoder can answer: one case for each row of the opcode map (R64). -/
theorem decode_cases {c : Command} {i : Instr} (h : decode c = .ok i) : c.zero = 0 ∧
    ((c.op = 1 ∧ c.ch = 0 ∧ i = .init c.dev c.arg0) ∨
    (c.op = 2 ∧ c.ch = 0 ∧ i = .setFrequency c.dev c.arg0) ∨
    (c.op = 3 ∧ c.configZero = 0 ∧
      i = .configureChannel c.dev c.ch c.pin c.af c.inverted c.arg1 c.arg2 c.arg3 c.arg4 c.arg5) ∨
    (c.op = 4 ∧ c.dutyZero = 0 ∧ i = .enableDutyCycle c.dev c.ch c.duty) ∨
    (c.op = 5 ∧ i = .disable c.dev c.ch) ∨
    (c.op = 6 ∧ c.ch = 0 ∧ i = .getClockFrequency c.dev) ∨
    (c.op = 7 ∧ c.ch = 0 ∧ i = .getPeriodTicks c.dev) ∨
    (c.op = 8 ∧ c.ch = 0 ∧ i = .getResolutionBits c.dev)) := by
  unfold decode decodeNoChannel decodeConfigure decodeEnable at h
  split at h
  · refine ⟨by assumption, ?_⟩
    repeat' split at h
    all_goals simp_all
  · simp at h

end Sys2Proof
end

