-- ==== Sys2Proof/Laws/Handler.lean ====
section
/-! SUPPORT. What DISABLE_CH and the transitions of the handler can change (spec/44_channel_commands.md R140,
spec/42_countdown_handler.md R113), and how a segment unfolds. -/

namespace Sys2Proof.Machine

/-! ### DISABLE_CH -/

theorem disableChannel_none {s : State} {d : Nat} (i : ChIdx) (h : s.dev? d = none) : disableChannel d i s = (.ok, s) := by
  simp [disableChannel, h]

theorem disableChannel_eq {s : State} {d : Nat} {dev : Device} (i : ChIdx) (h : s.dev? d = some dev) :
    disableChannel d i s =
      let r := unassignPin (dev.ch i).cfg.pin s
      (r.1, commit d false (r.2.setDev d (dev.setCh i (dev.ch i).clear))) := by
  simp [disableChannel, h]

/-- DISABLE_CH writes its slot, the pin-mux port and the record of port events, and nothing else (R140). -/
theorem disableChannel_frame (d : Nat) (i : ChIdx) (s : State) :
    (disableChannel d i s).2 = { s with
      devices := (disableChannel d i s).2.devices
      pinAnswers := (disableChannel d i s).2.pinAnswers
      pinDraws := (disableChannel d i s).2.pinDraws
      outputs := (disableChannel d i s).2.outputs } := by
  cases h : s.dev? d with
  | none => rw [disableChannel_none i h]
  | some dev =>
    rw [disableChannel_eq i h]
    dsimp only
    rw [commit_frame]
    have hb := (unassignPin_spec (dev.ch i).cfg.pin s).1
    rw [State.SameBlock] at hb
    generalize (unassignPin (dev.ch i).cfg.pin s).2 = u at *
    rw [hb]
    rfl

/-- The slot after DISABLE_CH: the commit of the slot with the channel cleared (R140). -/
theorem disableChannel_dev?_same {s : State} {d : Nat} {dev : Device} (i : ChIdx) (h : s.dev? d = some dev) :
    (disableChannel d i s).2.dev? d =
      some (commitDevice s.plat false (dev.setCh i (dev.ch i).clear)).1 := by
  rw [disableChannel_eq i h]
  have hb := (unassignPin_spec (dev.ch i).cfg.pin s).1
  have hd : ((unassignPin (dev.ch i).cfg.pin s).2.setDev d (dev.setCh i (dev.ch i).clear)).dev? d =
      some (dev.setCh i (dev.ch i).clear) :=
    State.dev?_setDev_same ((hb.dev?_eq d).trans h) _
  dsimp only
  rw [commit_dev?_same false hd, State.setDev_plat, hb.plat_eq]

theorem disableChannel_dev?_ne {s : State} {d e : Nat} (i : ChIdx) (he : e ≠ d) :
    (disableChannel d i s).2.dev? e = s.dev? e := by
  cases h : s.dev? d with
  | none => rw [disableChannel_none i h]
  | some dev =>
    rw [disableChannel_eq i h]
    dsimp only
    rw [commit_dev?_ne false he, State.dev?_setDev_ne _ he]
    exact (unassignPin_spec (dev.ch i).cfg.pin s).1.dev?_eq e

@[simp] theorem disableChannel_nDev (d : Nat) (i : ChIdx) (s : State) : (disableChannel d i s).2.nDev = s.nDev := by
  cases h : s.dev? d with
  | none => rw [disableChannel_none i h]
  | some dev =>
    rw [disableChannel_eq i h]
    dsimp only
    rw [commit_nDev, State.nDev_setDev]
    exact congrArg List.length (unassignPin_spec (dev.ch i).cfg.pin s).1.devices_eq

/-! ### What the handler leaves alone -/

/-- `t` differs from `s` at most in what the handler may write: the slots, its position, the pin-mux port and the record
of port events; the number of slots is the same. -/
def State.HandlerWrites (s t : State) : Prop :=
  t = { s with
    devices := t.devices
    hstate := t.hstate
    pinAnswers := t.pinAnswers
    pinDraws := t.pinDraws
    outputs := t.outputs } ∧ t.nDev = s.nDev

theorem State.HandlerWrites.refl (s : State) : s.HandlerWrites s := ⟨rfl, rfl⟩

theorem State.HandlerWrites.trans {s t u : State} (h : s.HandlerWrites t) (k : t.HandlerWrites u) :
    s.HandlerWrites u := by
  refine ⟨?_, k.2.trans h.2⟩
  rw [k.1, h.1]

theorem handlerWrites_goto (s : State) (h : HState) : s.HandlerWrites (s.goto h) := ⟨rfl, rfl⟩

theorem handlerWrites_setDev (s : State) (d : Nat) (dev : Device) : s.HandlerWrites (s.setDev d dev) := ⟨rfl, by simp⟩

theorem handlerWrites_present (k : CallbackKind) (d j : Nat) (h x : Word) (s : State) :
    s.HandlerWrites (presentCallback k d j h x s) := ⟨rfl, rfl⟩

theorem handlerWrites_disable (d : Nat) (i : ChIdx) (s : State) : s.HandlerWrites (disableChannel d i s).2 := by
  refine ⟨?_, disableChannel_nDev d i s⟩
  conv_lhs => rw [disableChannel_frame]
  conv_rhs => rw [disableChannel_frame]

theorem handlerMicro_writes (s : State) : s.HandlerWrites (handlerMicro s) := by
  unfold handlerMicro
  split
  · exact .refl s
  · unfold scanDevice
    split
    · exact handlerWrites_goto _ _
    · split
      · exact (handlerWrites_setDev _ _ _).trans (handlerWrites_goto _ _)
      · exact handlerWrites_goto _ _
  · unfold scanChannel
    split
    · exact handlerWrites_goto _ _
    · split
      · split
        · unfold examineChannel
          dsimp only
          split
          · split
            · unfold terminalPeriod
              dsimp only
              split
              · exact ((handlerWrites_setDev _ _ _).trans (handlerWrites_disable _ _ _)).trans (handlerWrites_goto _ _)
              · exact (handlerWrites_setDev _ _ _).trans (handlerWrites_present _ _ _ _ _ _)
            · unfold ordinaryPeriod
              dsimp only
              split
              · exact (handlerWrites_setDev _ _ _).trans (handlerWrites_goto _ _)
              · exact (handlerWrites_setDev _ _ _).trans (handlerWrites_present _ _ _ _ _ _)
          · exact handlerWrites_goto _ _
        · exact handlerWrites_goto _ _
      · exact handlerWrites_goto _ _
  · exact .refl s

theorem runHandler_writes (n : Nat) (s : State) : s.HandlerWrites (runHandler n s) := by
  induction n generalizing s with
  | zero => exact .refl s
  | succ n ih =>
    unfold runHandler
    split
    · exact (handlerMicro_writes s).trans (ih _)
    · exact .refl s

theorem runSegment_writes (s : State) : s.HandlerWrites (runSegment s) := runHandler_writes _ s

/-! ### Unfolding a segment -/

theorem runHandler_of_waiting {s : State} (n : Nat) (h : s.hstate.working = false) : runHandler n s = s := by
  cases n <;> simp [runHandler, h]

theorem runHandler_succ {s : State} (n : Nat) (h : s.hstate.working = true) :
    runHandler (n + 1) s = runHandler n (handlerMicro s) := by
  simp [runHandler, h]

/-- Package of an induction over a segment: what every micro-transition keeps, the segment keeps. -/
theorem runHandler_induct {P : State → Prop} (hstep : ∀ s, P s → P (handlerMicro s)) (n : Nat) {s : State} (h : P s) :
    P (runHandler n s) := by
  induction n generalizing s with
  | zero => exact h
  | succ n ih =>
    unfold runHandler
    split
    · exact ih (hstep s h)
    · exact h

theorem runSegment_induct {P : State → Prop} (hstep : ∀ s, P s → P (handlerMicro s)) {s : State} (h : P s) :
    P (runSegment s) := runHandler_induct hstep _ h

end Sys2Proof.Machine
end

