-- ==== Sys2Proof/Laws/PerInstr.lean ====
section
/-! SUPPORT. Statements made instruction by instruction. Family OpcodeRow: the encoder writes a `CMD` word that selects
the instruction's own row of the opcode map (spec/30_encoding.md R64). -/

namespace Sys2Proof.Laws.OpcodeRow

/-- The encoded `CMD` word selects the instruction's row. -/
def Statement (i : Instr) : Prop := i.row.selects (encode i).cmd = true

/-- A word of the form of R61 masked by a row without a channel. -/
theorem selects_noChannel (op d : Byte) :
    cmdWord op d 0 &&& 0xFFFF00FF = cmdWord op 0 0 := by
  apply BitVec.eq_of_getLsbD_eq
  intro i hi
  simp only [cmdWord, BitVec.getLsbD_and, BitVec.getLsbD_append]
  interval_cases i <;> simp

/-- A word of the form of R61 masked by a row with a channel. -/
theorem selects_channel (op d ch : Byte) :
    cmdWord op d ch &&& 0xFF0000FF = cmdWord op 0 0 := by
  apply BitVec.eq_of_getLsbD_eq
  intro i hi
  simp only [cmdWord, BitVec.getLsbD_and, BitVec.getLsbD_append]
  interval_cases i <;> simp

theorem init (d : Byte) (h : Word) : Statement (.init d h) := by
  simp only [Statement, OpcodeRow.selects, Instr.row, encode, selects_noChannel]; decide

theorem setFrequency (d : Byte) (f : Word) : Statement (.setFrequency d f) := by
  simp only [Statement, OpcodeRow.selects, Instr.row, encode, selects_noChannel]; decide

theorem configureChannel (d ch pin : Byte) (af : AltFn) (inv : Bool) (n a b e f : Word) :
    Statement (.configureChannel d ch pin af inv n a b e f) := by
  simp only [Statement, OpcodeRow.selects, Instr.row, encode, selects_channel]; decide

theorem enableDutyCycle (d ch : Byte) (u : Half) : Statement (.enableDutyCycle d ch u) := by
  simp only [Statement, OpcodeRow.selects, Instr.row, encode, selects_channel]; decide

theorem disable (d ch : Byte) : Statement (.disable d ch) := by
  simp only [Statement, OpcodeRow.selects, Instr.row, encode, selects_channel]; decide

theorem getClockFrequency (d : Byte) : Statement (.getClockFrequency d) := by
  simp only [Statement, OpcodeRow.selects, Instr.row, encode, selects_noChannel]; decide

theorem getPeriodTicks (d : Byte) : Statement (.getPeriodTicks d) := by
  simp only [Statement, OpcodeRow.selects, Instr.row, encode, selects_noChannel]; decide

theorem getResolutionBits (d : Byte) : Statement (.getResolutionBits d) := by
  simp only [Statement, OpcodeRow.selects, Instr.row, encode, selects_noChannel]; decide

end Sys2Proof.Laws.OpcodeRow
end

