-- ==== Sys2Proof/Laws/Step.lean ====
section
/-! SUPPORT. What a command and a step can do, said once: if it answers a next state, then that state is one of those
listed. Later proofs cite these instead of unfolding `exec` or `step`. -/

namespace Sys2Proof.Machine

/-! ### The commands -/

/-- INIT (spec/44_channel_commands.md R131). -/
theorem execInit_next {d : Byte} {h : Word} {s t : State} (e : execInit d h s = .next t) :
    (t = { s with result := ResultCode.noDevice.word } ∧ ∀ dev, s.dev? d.toNat = some dev → dev.valid = true) ∨
    (∃ dev, s.dev? d.toNat = some dev ∧ dev.valid = false ∧
      (h = 0 ∧ t = { s with result := ResultCode.noTimerHandle.word } ∨
        h ≠ 0 ∧ ∃ m, timerOf s.plat h = some m ∧
          t = { s.setDev d.toNat (dev.init h m) with irqEn := true, result := ResultCode.ok.word })) := by
  unfold execInit at e
  split at e
  · next hd => exact .inl ⟨finish_eq_next.mp e, by simp [hd]⟩
  · next dev hd =>
    split at e
    · next hv => exact .inl ⟨finish_eq_next.mp e, by simp [hd, hv]⟩
    · next hv =>
      refine .inr ⟨dev, hd, by simpa using hv, ?_⟩
      split at e
      · next h0 => exact .inl ⟨h0, finish_eq_next.mp e⟩
      · next h0 =>
        split at e
        · cases e
        · next m hm => exact .inr ⟨h0, m, hm, finish_eq_next.mp e⟩

/-- SET_FREQUENCY (spec/40_divisor_solver.md R84). -/
theorem execSetFrequency_next {d : Byte} {f : Word} {s t : State} (e : execSetFrequency d f s = .next t) :
    t = { s with result := ResultCode.noDevice.word } ∨
    (∃ dev, s.dev? d.toNat = some dev ∧ dev.valid = true ∧
      (solve dev.timerClock f = none ∧ t = { s with result := ResultCode.frequency.word } ∨
        ∃ r, solve dev.timerClock f = some r ∧
          t = { commit d.toNat true (s.setDev d.toNat { dev with prescale := r.prescale, reload := r.reload }) with
            result := ResultCode.ok.word })) := by
  unfold execSetFrequency at e
  split at e
  · exact .inl (finish_eq_next.mp e)
  · next dev hd =>
    obtain ⟨hd, hv⟩ := liveDevice_eq_some.mp hd
    refine .inr ⟨dev, hd, hv, ?_⟩
    split at e
    · next hs => exact .inl ⟨hs, finish_eq_next.mp e⟩
    · next r hs => exact .inr ⟨r, hs, finish_eq_next.mp e⟩

/-- CONFIGURE_CHANNEL (spec/44_channel_commands.md R134). -/
theorem execConfigureChannel_next {d ch pin : Byte} {af : AltFn} {inv : Bool} {n ccb cdata scb sdata : Word}
    {s t : State} (e : execConfigureChannel d ch pin af inv n ccb cdata scb sdata s = .next t) :
    t = { s with result := ResultCode.noDevice.word } ∨
    (∃ dev, s.dev? d.toNat = some dev ∧ dev.valid = true ∧
      (t = { s with result := ResultCode.channel.word } ∨
        ∃ i : ChIdx, i.val = ch.toNat ∧ ch.toNat < dev.nCh ∧
          ((movePin (dev.ch i) pin af s).1 = .fail ∧
              t = { (movePin (dev.ch i) pin af s).2 with result := ResultCode.pinAssignment.word } ∨
            (movePin (dev.ch i) pin af s).1 = .ok ∧
              t = { (movePin (dev.ch i) pin af s).2.setDev d.toNat
                      (dev.setCh i ((dev.ch i).configured pin af inv n ccb cdata scb sdata)) with
                result := ResultCode.ok.word }))) := by
  unfold execConfigureChannel at e
  split at e
  · exact .inl (finish_eq_next.mp e)
  · next dev hd =>
    obtain ⟨hd, hv⟩ := liveDevice_eq_some.mp hd
    refine .inr ⟨dev, hd, hv, ?_⟩
    split at e
    · exact .inl (finish_eq_next.mp e)
    · next i hi =>
      obtain ⟨hi, hlt⟩ := channelIndex_eq_some.mp hi
      refine .inr ⟨i, hi, hlt, ?_⟩
      dsimp only at e
      split at e
      · next hr => exact .inl ⟨hr, finish_eq_next.mp e⟩
      · next hr => exact .inr ⟨hr, finish_eq_next.mp e⟩

/-- ENABLE_DUTY_CYCLE (spec/44_channel_commands.md R137). -/
theorem execEnableDutyCycle_next {d ch : Byte} {duty : Half} {s t : State}
    (e : execEnableDutyCycle d ch duty s = .next t) :
    t = { s with result := ResultCode.noDevice.word } ∨
    (∃ dev, s.dev? d.toNat = some dev ∧ dev.valid = true ∧
      (t = { s with result := ResultCode.channel.word } ∨
        ∃ i : ChIdx, i.val = ch.toNat ∧ ch.toNat < dev.nCh ∧
          t = { commit d.toNat false (s.setDev d.toNat (dev.setCh i ((dev.ch i).enable duty))) with
            result := ResultCode.ok.word })) := by
  unfold execEnableDutyCycle at e
  split at e
  · exact .inl (finish_eq_next.mp e)
  · next dev hd =>
    obtain ⟨hd, hv⟩ := liveDevice_eq_some.mp hd
    refine .inr ⟨dev, hd, hv, ?_⟩
    split at e
    · exact .inl (finish_eq_next.mp e)
    · next i hi =>
      obtain ⟨hi, hlt⟩ := channelIndex_eq_some.mp hi
      exact .inr ⟨i, hi, hlt, finish_eq_next.mp e⟩

/-- DISABLE (spec/44_channel_commands.md R139). -/
theorem execDisable_next {d ch : Byte} {s t : State} (e : execDisable d ch s = .next t) :
    t = { s with result := ResultCode.noDevice.word } ∨
    (∃ dev, s.dev? d.toNat = some dev ∧ dev.valid = true ∧
      (t = { s with result := ResultCode.channel.word } ∨
        ∃ i : ChIdx, i.val = ch.toNat ∧ ch.toNat < dev.nCh ∧
          t = { (disableChannel d.toNat i s).2 with result := (disableCode (disableChannel d.toNat i s).1).word })) := by
  unfold execDisable at e
  split at e
  · exact .inl (finish_eq_next.mp e)
  · next dev hd =>
    obtain ⟨hd, hv⟩ := liveDevice_eq_some.mp hd
    refine .inr ⟨dev, hd, hv, ?_⟩
    split at e
    · exact .inl (finish_eq_next.mp e)
    · next i hi =>
      obtain ⟨hi, hlt⟩ := channelIndex_eq_some.mp hi
      exact .inr ⟨i, hi, hlt, finish_eq_next.mp e⟩

/-- GET_CLOCK_FREQUENCY (spec/43_queries.md R120). -/
theorem execGetClockFrequency_next {d : Byte} {s t : State} (e : execGetClockFrequency d s = .next t) :
    t = { s with result := ResultCode.noDevice.word } ∨
    (∃ dev, s.dev? d.toNat = some dev ∧ dev.valid = true ∧
      t = { s with rdata := clockFrequency dev.timerClock dev.prescale, result := ResultCode.ok.word }) := by
  unfold execGetClockFrequency at e
  split at e
  · exact .inl (finish_eq_next.mp e)
  · next dev hd => exact .inr ⟨dev, (liveDevice_eq_some.mp hd).1, (liveDevice_eq_some.mp hd).2, finish_eq_next.mp e⟩

/-- GET_PERIOD_TICKS (spec/43_queries.md R121). -/
theorem execGetPeriodTicks_next {d : Byte} {s t : State} (e : execGetPeriodTicks d s = .next t) :
    t = { s with result := ResultCode.noDevice.word } ∨
    (∃ dev, s.dev? d.toNat = some dev ∧ dev.valid = true ∧
      t = { s with rdata := periodTicks dev.reload, result := ResultCode.ok.word }) := by
  unfold execGetPeriodTicks at e
  split at e
  · exact .inl (finish_eq_next.mp e)
  · next dev hd => exact .inr ⟨dev, (liveDevice_eq_some.mp hd).1, (liveDevice_eq_some.mp hd).2, finish_eq_next.mp e⟩

/-- GET_RESOLUTION_BITS (spec/43_queries.md R122). -/
theorem execGetResolutionBits_next {d : Byte} {s t : State} (e : execGetResolutionBits d s = .next t) :
    t = { s with result := ResultCode.noDevice.word } ∨
    (∃ dev, s.dev? d.toNat = some dev ∧ dev.valid = true ∧
      t = { s with rdata := resolutionBits dev.reload, result := ResultCode.ok.word }) := by
  unfold execGetResolutionBits at e
  split at e
  · exact .inl (finish_eq_next.mp e)
  · next dev hd => exact .inr ⟨dev, (liveDevice_eq_some.mp hd).1, (liveDevice_eq_some.mp hd).2, finish_eq_next.mp e⟩

/-! ### The interrupt -/

/-- The request is up exactly when the vector is enabled and a valid slot is pending (spec/20_memory.md R57). -/
theorem irqRequest_eq_true {s : State} :
    s.irqRequest = true ↔ s.irqEn = true ∧ ∃ dev ∈ s.devices, dev.valid = true ∧ dev.pending = true := by
  simp [State.irqRequest, Device.requests]

theorem irqEn_of_irqRequest {s : State} (h : s.irqRequest = true) : s.irqEn = true := (irqRequest_eq_true.mp h).1

/-- With no input a waiting request is taken, else nothing happens (spec/60_exceptions.md R157, log 23). -/
theorem unprompted_cases (s : State) :
    (s.hstate = .idle ∧ s.irqRequest = true ∧ unprompted s = runSegment { s with hstate := .scan 0 }) ∨
    ((s.hstate ≠ .idle ∨ s.irqRequest = false) ∧ unprompted s = s) := by
  unfold unprompted
  split
  · next h => exact .inl ⟨h.1, h.2, rfl⟩
  · next h => exact .inr ⟨by rw [not_and_or] at h; simpa using h, rfl⟩

/-! ### The port and the step -/

/-- A port access (spec/20_memory.md R44): it records a read, writes an argument register, does nothing, or issues. -/
theorem portAccess_next {a : Access} {s t : State} (e : portAccess a s = .next t) :
    (∃ addr v, t = s.emit (.readData addr v)) ∨
    (∃ a0 a1 a2 a3 a4 a5, t = { s with arg0 := a0, arg1 := a1, arg2 := a2, arg3 := a3, arg4 := a4, arg5 := a5 }) ∨
    (∃ v, t = { s with cmd := v, result := ResultCode.badCommand.word }) ∨
    (∃ v i, decode { s with cmd := v }.command = .ok i ∧ exec i { s with cmd := v } = .next t) := by
  unfold portAccess at e
  split at e
  · split at e
    · cases e
    · cases e; exact .inl ⟨_, _, rfl⟩
  · split at e
    · cases e
    · next r hr =>
      unfold portWrite at e
      split at e
      · next v _ _ =>
        unfold runCommand at e
        split at e
        · next i hi => exact .inr (.inr (.inr ⟨v, i, hi, e⟩))
        · exact .inr (.inr (.inl ⟨v, finish_eq_next.mp e⟩))
      · cases e
        refine .inr (.inl ?_)
        cases r <;> first | exact ⟨_, _, _, _, _, _, rfl⟩ | exact absurd rfl ‹_›

/-- A step (spec/20_memory.md R51): a handler segment; nothing; a port access; an event; an invocation, by an input or for
want of one; a return. -/
theorem step_next {s t : State} (e : step s = .next t) :
    (s.hstate.working = true ∧ t = runSegment s) ∨
    (s.hstate.working = false ∧ s.inputs = [] ∧ t = s) ∨
    (∃ who a rest, s.hstate.working = false ∧ s.inputs = .access who a :: rest ∧ s.hstate.issuer = some who ∧
      portAccess a { s with inputs := rest } = .next t) ∨
    (∃ d rest dev, s.hstate.working = false ∧ s.inputs = .periodElapsed d :: rest ∧ s.dev? d = some dev ∧
      dev.valid = true ∧ dev.counterEn = true ∧ t = { s with inputs := rest }.setDev d dev.periodElapsed) ∨
    (∃ rest, (s.inputs = .interrupt :: rest ∨ s.inputs = .spurious :: rest ∨ s.inputs = [] ∧ rest = []) ∧
      s.hstate = .idle ∧ s.irqEn = true ∧
      t = runSegment { s with inputs := rest, hstate := .scan 0 }) ∨
    (∃ d j k rest, s.inputs = .calleeReturn :: rest ∧ s.hstate = .cb d j k ∧
      t = runSegment { s with inputs := rest, hstate := .chan d (j + 1) }) := by
  unfold step atomicStep at e
  split at e
  · next hw => cases e; exact .inl ⟨hw, rfl⟩
  · next hw =>
    have hw : s.hstate.working = false := by simpa using hw
    split at e
    · next hi =>
      cases e
      rcases unprompted_cases s with ⟨hb, hr, hu⟩ | ⟨-, hu⟩
      · refine .inr (.inr (.inr (.inr (.inl ⟨[], .inr (.inr ⟨hi, rfl⟩), hb, irqEn_of_irqRequest hr, ?_⟩))))
        rw [hu, ← hi]
      · exact .inr (.inl ⟨hw, hi, hu⟩)
    · next ev rest hi =>
      refine .inr (.inr ?_)
      cases ev with
      | access who a =>
        simp only [takeInput] at e
        split at e
        · next hu => exact .inl ⟨who, a, rest, hw, hi, hu, e⟩
        · cases e
      | periodElapsed d =>
        simp only [takeInput, periodEvent] at e
        split at e
        · cases e
        · next dev hd =>
          split at e
          · next hr =>
            cases e
            simp only [Device.running, Bool.and_eq_true] at hr
            exact .inr (.inl ⟨d, rest, dev, hw, hi, hd, hr.1, hr.2, rfl⟩)
          · cases e
      | interrupt =>
        simp only [takeInput, beginInvocation] at e
        split at e
        · next hb =>
          cases e
          exact .inr (.inr (.inl ⟨rest, .inl hi, hb.1, irqEn_of_irqRequest hb.2, rfl⟩))
        · cases e
      | spurious =>
        simp only [takeInput, beginInvocation] at e
        split at e
        · next hb => cases e; exact .inr (.inr (.inl ⟨rest, .inr (.inl hi), hb.1, hb.2, rfl⟩))
        · cases e
      | calleeReturn =>
        simp only [takeInput, endCallback] at e
        split at e
        · next d j k hc =>
          cases e
          refine .inr (.inr (.inr ⟨d, j, k, rest, hi, hc, ?_⟩))
          have hc' : s.hstate = .cb d j k := hc
          simp [State.resume, State.goto, hc']
        all_goals cases e

end Sys2Proof.Machine
end

