-- ==== Sys2Proof/Tests/Slice0.lean ====
section
/-! SUPPORT. Tests of the model against the words, vectors and programs of spec/95_test_vectors.md (each test names its
row there), the smoke test of `Instr.wellFormed`, and for each obligation with hypotheses a concrete state and operands
that meet them together. Expected values come from the spec, never from the model. -/

namespace Sys2Proof.Tests

open Sys2Proof Sys2Proof.Machine

/-! ### Small states -/

/-- A platform on which everything the spec leaves open has a value; handle `0xDEAD` is outside the domain of
`ChCountOf` and `ClockOf`. -/
def plat : Platform where
  timers := (0xDEAD, none) :: Config.platform.timers
  pullMode := 1
  forceUpdatePends := false
  countRule := .nonDisabled

/-- A channel with a CHCFG word. -/
def chan (w : Word) : Channel := { Channel.reset with chcfg := w }

/-- A live slot with four disabled records, 72 MHz, prescale 1 and reload 35999 (P1 after its step 2). -/
def fresh : Device :=
  { Device.reset with
    valid := true, handle := 0x40000400, chCount := .four, timerClock := 72000000, prescale := 1, reload := 35999 }

/-- `fresh` with record 0 configured (P1 after its step 3). -/
def configured : Device := fresh.setCh 0 (chan 0x8208FFFF)

/-- An enabled channel whose outputs are written, with a countdown and callbacks. -/
def runningChannel (cycleCount cycle ccb scb : Word) : Channel :=
  { chan 0x22088000 with
    cycleCount := cycleCount, cycle := cycle, cycleCb := ccb, cycleData := 0xA, seqCb := scb, seqData := 0xB
    compare := 18000, compareAct := 18000, ocPwm := true, ocPreload := true, chOutEn := true }

/-- A live slot whose counter runs for channel 0. -/
def running (cycleCount cycle ccb scb : Word) : Device :=
  { fresh.setCh 0 (runningChannel cycleCount cycle ccb scb) with
    counterEn := true, prescaleAct := 1, reloadAct := 35999 }

/-- `dev` in slot 0 beside an uninitialised slot 1. -/
def board (dev : Device) : State :=
  { State.powerOn plat 2 with devices := [dev, Device.reset], irqEn := true }

/-- `board` with the next inputs. -/
def boardWith (dev : Device) (l : List Input) : State := { board dev with inputs := l }

/-- `board` with the handler at a position. -/
def boardAt (dev : Device) (h : HState) : State := (board dev).goto h

/-- The next state, if there is one. -/
def nextOf (o : Host.Outcome State Fault Refusal) : Option State :=
  match o with
  | .next t => some t
  | .fault _ => none
  | .refused _ => none

/-- What `f` sees in the next state. -/
def seen {α : Type} (o : Host.Outcome State Fault Refusal) (f : State → α) : Option α := (nextOf o).map f

/-- What `f` sees of slot 0. -/
def slot0 {α : Type} (s : State) (f : Device → α) : Option α := (s.dev? 0).map f

/-! ### The issuer's obligation: one ill-formed command for the one check -/

theorem test_wellFormed_refuses_pin_without_af :
    (Instr.configureChannel 0 0 0x08 0xF false 0 0 0 0 0).wellFormed = false ∧
    (Instr.configureChannel 0 0 0xFF 0x2 false 0 0 0 0 0).wellFormed = false := by decide

theorem test_wellFormed_accepts :
    (Instr.configureChannel 0 0 0x08 0x2 false 0 0 0 0 0).wellFormed = true ∧
    (Instr.configureChannel 0 0 0xFF 0xF false 0 0 0 0 0).wellFormed = true ∧
    (Instr.disable 0 9).wellFormed = true := by decide

/-! ### Decoding: words written out from spec/30_encoding.md R61 to R64 -/

/-- V61: `INIT 1, 0x40000400` is `0x00000101`. -/
theorem test_decode_init : decode ⟨0x00000101, 0x40000400, 0, 0, 0, 0, 0⟩ = .ok (.init 1 0x40000400) := by decide

/-- V60: `SET_FREQUENCY 0, 1000` is `0x00000002`, ARG0 `0x3E8`. -/
theorem test_decode_setFrequency : decode ⟨0x00000002, 0x3E8, 0, 0, 0, 0, 0⟩ = .ok (.setFrequency 0 1000) := by decide

/-- P2 step 3: `CONFIGURE_CHANNEL 0, 1, 0x1A, 1, 1, 3, 0x100, 0xA, NONE, 0`; and V67 "Further encodings". -/
theorem test_decode_configureChannel :
    decode ⟨0x00010003, 0x0000111A, 3, 0x100, 0xA, 0, 0⟩ =
      .ok (.configureChannel 0 1 0x1A 1 true 3 0x100 0xA 0 0) ∧
    decode ⟨0x00010303, 0x00000FFF, 0, 0, 0, 4, 5⟩ = .ok (.configureChannel 3 1 0xFF 0xF false 0 0 0 4 5) := by decide

/-- P2 step 4: `ENABLE_DUTY_CYCLE 0, 1, 16384`. -/
theorem test_decode_enableDutyCycle :
    decode ⟨0x00010004, 0x00004000, 0, 0, 0, 0, 0⟩ = .ok (.enableDutyCycle 0 1 16384) := by decide

/-- V67: `DISABLE 0, 2`. -/
theorem test_decode_disable : decode ⟨0x00020005, 7, 7, 7, 7, 7, 7⟩ = .ok (.disable 0 2) := by decide

/-- P1 steps 7, 5 and the "Further encodings" of section 7. -/
theorem test_decode_queries :
    decode ⟨0x00000006, 0, 0, 0, 0, 0, 0⟩ = .ok (.getClockFrequency 0) ∧
    decode ⟨0x00000007, 0, 0, 0, 0, 0, 0⟩ = .ok (.getPeriodTicks 0) ∧
    decode ⟨0x00000208, 0, 0, 0, 0, 0, 0⟩ = .ok (.getResolutionBits 2) := by decide

/-- V65, V65a to V65e and the other boundary of each condition of R66. -/
theorem test_decode_illegal :
    decode ⟨0x00000000, 0, 0, 0, 0, 0, 0⟩ = .error .reservedOp ∧
    decode ⟨0x00000009, 0, 0, 0, 0, 0, 0⟩ = .error .reservedOp ∧
    decode ⟨0x000000FF, 0, 0, 0, 0, 0, 0⟩ = .error .reservedOp ∧
    decode ⟨0x00010002, 0x3E8, 0, 0, 0, 0, 0⟩ = .error .channelField ∧
    decode ⟨0x01000002, 0x3E8, 0, 0, 0, 0, 0⟩ = .error .topByte ∧
    decode ⟨0x00000004, 0x10000, 0, 0, 0, 0, 0⟩ = .error .dutyField ∧
    decode ⟨0x00000003, 0x2000, 0, 0, 0, 0, 0⟩ = .error .configField ∧
    decodeBytes [3, 0, 0, 0] = .error .truncated := by decide

/-- Section 7, "bytes at 0x00": `DISABLE 0, 2` is `05 00 02 00`. -/
theorem test_decode_bytes :
    decodeBytes ([0x05, 0x00, 0x02, 0x00] ++ List.replicate 24 0 ++ [0xAB]) = .ok (.disable 0 2, [0xAB]) := by decide

/-- The interface's numbering: bit 0 is the least significant bit of the first word. -/
theorem test_decodeTableWord :
    decodeTableWord 32 0x00000001 = some (.init 0 0) ∧
    decodeTableWord 32 0x00020005 = some (.disable 0 2) ∧
    decodeTableWord 64 0x0000400000010004 = some (.enableDutyCycle 0 1 16384) ∧
    decodeTableWord 32 0x00000009 = none := by decide

/-! ### The solver and the scaling (V1 to V34b) -/

/-- V1, V3, V4, V5, V6, V11, V13. -/
theorem test_solve :
    solve 72000000 1000 = some ⟨1, 35999⟩ ∧ solve 72000000 72000000 = some ⟨0, 0⟩ ∧
    solve 72000000 72000001 = none ∧ solve 72000000 0 = none ∧ solve 72000000 1098 = some ⟨1, 32785⟩ ∧
    solve 65535 1 = some ⟨0, 65534⟩ ∧ solve 131071 1 = some ⟨1, 65534⟩ := by decide

/-- V27, V29, V30, V32, V34b. -/
theorem test_dutyToCompare :
    dutyToCompare 32768 35999 = 18000 ∧ dutyToCompare 65535 35999 = 35999 ∧ dutyToCompare 65535 65535 = 65535 ∧
    dutyToCompare 65535 0 = 0 ∧ dutyToCompare 32768 36362 = 18181 := by decide

/-! ### One step of each command -/

/-- V63, P1 step 1: the slot is valid, its records are `SENTINEL`, the vector is enabled. -/
theorem test_init :
    let r := exec (.init 0 0x40000400) (State.powerOn plat 1)
    seen r (fun t => (t.result, t.irqEn)) = some (0, true) ∧
    seen r (fun t => slot0 t fun d => (d.valid, d.chCount, d.timerClock, (d.ch 3).chcfg)) =
      some (some (true, .four, 72000000, 0x0FFFFFFF)) := by decide

/-- V62, V61, V64: no handle; no such slot; a second INIT. -/
theorem test_init_errors :
    seen (exec (.init 0 0) (State.powerOn plat 1)) State.result = some 2 ∧
    seen (exec (.init 1 0x40000400) (State.powerOn plat 1)) State.result = some 1 ∧
    seen (exec (.init 0 0x40000400) (board fresh)) State.result = some 1 := by decide

/-- V39b: two channels re-configured and enabled: the commit of SET_FREQUENCY is a cold start. -/
theorem test_setFrequency :
    let r := exec (.setFrequency 0 1000) (board ((fresh.setCh 0 (chan 0xA2088000)).setCh 1 (chan 0xA2094000)))
    seen r (fun t => (t.result, t.outputs)) = some (0, [.counterReset 0]) ∧
    seen r (fun t => slot0 t fun d => (d.prescaleAct, d.reloadAct, d.counterEn, (d.ch 1).compareAct)) =
      some (some (1, 35999, true, 9000)) := by decide

/-- V66a, V66. -/
theorem test_setFrequency_edges :
    seen (exec (.setFrequency 0 72000000) (board fresh)) (fun t =>
      (t.result, slot0 t fun d => (d.prescale, d.reload))) = some (0, some (0, 0)) ∧
    seen (exec (.setFrequency 0 72000001) (board fresh)) State.result = some 4 := by decide

/-- V67b with the answer `ok`: `CHCFG[0][0] = 0x8208FFFF`, `CYCLE_COUNT = CYCLE = 5`. -/
theorem test_configureChannel :
    seen (exec (.configureChannel 0 0 0x08 2 false 5 0 0 0 0) { board fresh with pinAnswers := [.ok] }) (fun t =>
      (t.result, t.outputs, slot0 t fun d => ((d.ch 0).chcfg, (d.ch 0).cycle, (d.ch 0).cycleCount))) =
    some (0, [.assignPin 0x08 2 1 .ok], some (0x8208FFFF, 5, 5)) := by decide

/-- P4 step 5: no pin, no pin-mux call, `CHCFG = 0x8FFFFFFF`; V67c: the old pin's release fails, nothing is written. -/
theorem test_configureChannel_pins :
    seen (exec (.configureChannel 0 2 0xFF 0xF false 0 0x110 1 0 0) (board fresh)) (fun t =>
      (t.result, t.outputs, slot0 t fun d => (d.ch 2).chcfg)) = some (0, [], some 0x8FFFFFFF) ∧
    seen (exec (.configureChannel 0 0 0x09 2 false 6 0 0 0 0) { board configured with pinAnswers := [.fail] }) (fun t =>
      (t.result, slot0 t fun d => ((d.ch 0).chcfg, (d.ch 0).cycle))) = some (5, some (0x8208FFFF, 0)) := by decide

/-- P1 step 4: the cold start of the first channel. -/
theorem test_enableDutyCycle :
    let r := exec (.enableDutyCycle 0 0 32768) (board configured)
    seen r (fun t => (t.result, t.outputs)) = some (0, [.counterReset 0]) ∧
    seen r (fun t => slot0 t fun d => ((d.ch 0).chcfg, (d.ch 0).compareAct, d.counterEn, (d.ch 0).chOutEn)) =
      some (some (0x22088000, 18000, true, true)) := by decide

/-- V69: the enable of a disabled record takes the cheap path and starts no counter. -/
theorem test_enableDutyCycle_disabled_record :
    seen (exec (.enableDutyCycle 0 1 32768) (board { fresh with reload := 0 })) (fun t => (t.result, slot0 t fun d =>
      ((d.ch 1).chcfg, (d.ch 1).compare, (d.ch 1).chOutEn, d.counterEn))) =
    some (0, some (0x2FFF8000, 0, false, false)) := by decide

/-- V67d: the pin's release fails and the record is cleared all the same; the counter stops. -/
theorem test_disable :
    seen (exec (.disable 0 0) { board (running 5 5 0 0) with pinAnswers := [.fail] }) (fun t => (t.result, slot0 t fun d =>
      ((d.ch 0).chcfg, (d.ch 0).cycle, (d.ch 0).chOutEn, d.counterEn))) =
    some (5, some (0x0FFFFFFF, 5, false, false)) := by decide

/-- V68, V67: a disabled record; a channel out of range. -/
theorem test_disable_edges :
    seen (exec (.disable 0 0) (board fresh)) State.result = some 0 ∧
    seen (exec (.disable 0 2) (board { fresh with chCount := .two })) State.result = some 3 := by decide

/-- V50, V50a. -/
theorem test_getClockFrequency :
    seen (exec (.getClockFrequency 0) (board fresh)) (fun t => (t.result, t.rdata)) = some (0, 36000000) ∧
    seen (exec (.getClockFrequency 0) (board { fresh with prescale := 1098 })) State.rdata = some 65514 := by decide

/-- V51, V51a. -/
theorem test_getPeriodTicks :
    seen (exec (.getPeriodTicks 0) (board fresh)) (fun t => (t.result, t.rdata)) = some (0, 36000) ∧
    seen (exec (.getPeriodTicks 0) (board { fresh with reload := 0xFFFF })) State.rdata = some 65536 := by decide

/-- V52, V53, V56. -/
theorem test_getResolutionBits :
    seen (exec (.getResolutionBits 0) (board { fresh with reload := 999 })) (fun t => (t.result, t.rdata)) =
      some (0, 10) ∧
    seen (exec (.getResolutionBits 0) (board { fresh with reload := 0 })) State.rdata = some 0 ∧
    seen (exec (.getResolutionBits 0) (board { fresh with reload := 0x8000 })) State.rdata = some 16 := by decide

/-! ### The port, the events and the handler -/

/-- V65a on the port: `BadCommand`, nothing else. -/
theorem test_step_badCommand :
    seen (step (boardWith fresh [.access .foreground (.write 0 4 9)])) (fun t => (t.result, t.cmd, t.devices)) =
    some (0xFFFFFFFF, 9, (board fresh).devices) := by decide

/-- P1 step 5 on the port, through the interface's placement: `0x00000007` answers 36000. -/
theorem test_step_placed : seen (step ((board fresh).withFetchWord 32 7)) State.rdata = some 36000 := by decide

/-- P3 step 7': the event latches the staged compare value and sets `PENDING`. -/
theorem test_periodElapsed :
    seen (step (boardWith ((running 0 0 0 0).setCh 1 { chan 0x22094000 with compare := 900 }) [.periodElapsed 0])) (fun t =>
      slot0 t fun d => ((d.ch 1).compareAct, d.pending)) = some (some (900, true)) := by decide

/-- R157: with no input left, a request that is up is taken. -/
theorem test_request_not_waiting_for_ever :
    seen (step (board { running 3 3 0 0 with pending := true })) (fun t =>
      (t.hstate, slot0 t fun d => ((d.ch 0).cycle, d.pending))) = some (.idle, some (2, false)) := by decide

/-- V40 event 1, P2 step 5: one decrement, then the per-cycle callback. -/
theorem test_handler_cycle :
    seen (step (boardWith { running 3 3 0x100 0 with pending := true } [.interrupt])) (fun t =>
      (t.hstate, t.outputs, slot0 t fun d => ((d.ch 0).cycle, d.pending))) =
    some (.cb 0 0 .cycle, [.callback .cycle 0 0 0x100 0xA], some (2, false)) := by decide

/-- V40 event 3, P2 step 7: re-armed, disabled, the counter stopped, no callback. -/
theorem test_handler_autoDisable :
    seen (step { boardWith { running 3 1 0x100 0 with pending := true } [.interrupt] with pinAnswers := [.ok] }) (fun t =>
      (t.hstate, t.outputs, slot0 t fun d => ((d.ch 0).chcfg, (d.ch 0).cycle, d.counterEn))) =
    some (.idle, [.unassignPin 0x08 .ok], some (0x0FFFFFFF, 3, false)) := by decide

/-- V41 event 3, V48: the sequence callback instead of the per-cycle one, after the re-arm. -/
theorem test_handler_sequence :
    seen (step (boardWith { running 3 1 0x100 0x200 with pending := true } [.interrupt])) (fun t =>
      (t.hstate, t.outputs, slot0 t fun d => (d.ch 0).cycle)) =
    some (.cb 0 0 .seq, [.callback .seq 0 0 0x200 0xB], some 3) := by decide

/-- V43, V47: an unbounded channel stays at 0 and is called back; a record that is not enabled is not counted. -/
theorem test_handler_unbounded :
    seen (step (boardWith { (running 0 0 0x100 0x200).setCh 1 { chan 0x8209FFFF with cycle := 3 } with pending := true }
      [.interrupt])) (fun t => (t.hstate, slot0 t fun d => ((d.ch 0).cycle, (d.ch 1).cycle))) =
    some (.cb 0 0 .cycle, some (0, 3)) := by decide

/-- P4 step 12: the callee's return resumes at the next channel; a channel disabled in the window is skipped. -/
theorem test_handler_return :
    seen (step { boardAt (running 2 2 0 0x300) (.cb 0 0 .seq) with inputs := [.calleeReturn] }) (fun t =>
      (t.hstate, t.outputs)) = some (.idle, []) := by decide

/-! ### Witnesses: for each obligation with hypotheses, a state and operands that meet them together

One conjunct for each clause, at a boundary of its range where it has one. -/

/-- The invariant of a live slot, on the three small devices. -/
theorem fresh_inv : fresh.Inv :=
  ⟨by intro i; fin_cases i <;> exact ⟨by decide, by decide, by decide, by decide⟩, by decide, by decide, by decide⟩

theorem configured_inv : configured.Inv :=
  ⟨by intro i; fin_cases i <;> exact ⟨by decide, by decide, by decide, by decide⟩, by decide, by decide, by decide⟩

theorem running_inv : (running 3 3 0x100 0).Inv :=
  ⟨by intro i; fin_cases i <;> exact ⟨by decide, by decide, by decide, by decide⟩, by decide, by decide, by decide⟩

/-- A board whose slot 0 keeps the device invariant keeps the block's, in the foreground. -/
theorem board_inv {dev : Device} (h : dev.Inv) (l : List Input) : (boardWith dev l).Inv where
  slots := by simp [boardWith, board]
  devices := by
    intro e he hv
    simp only [boardWith, board, List.mem_cons, List.not_mem_nil, or_false] at he
    obtain rfl | rfl := he
    · exact h
    · exact absurd hv (by decide)
  vector := fun _ _ _ => rfl
  handler := fun _ => rfl
  position := trivial

theorem witness_DecodedWordsAreTheEncoding :
    decode ⟨0x00020005, 7, 7, 7, 7, 7, 7⟩ = .ok (.disable 0 2) := test_decode_disable

theorem witness_OpcodeMapDecides :
    (∃ r ∈ opcodeTable, r.selects 0x0001FF03 = true) ∧ (∃ r ∈ opcodeTable, r.selects 0x0000FF08 = true) ∧
    decode ⟨0x0000FF08, 0, 0, 0, 0, 0, 0⟩ = .ok (.getResolutionBits 0xFF) ∧
    decode ⟨0x00000004, 0x10000, 0, 0, 0, 0, 0⟩ = .error .dutyField ∧
    decode ⟨0x00000003, 0x2000, 0, 0, 0, 0, 0⟩ = .error .configField := by decide

/-- The least word of each illegal condition, and the greatest legal ones beside them. -/
theorem witness_IllegalCommandsWriteBadCommand :
    runCommand { board fresh with cmd := 0x01000001 } = .next { board fresh with cmd := 0x01000001, result := 0xFFFFFFFF } ∧
    runCommand { board fresh with cmd := 0x00000009 } = .next { board fresh with cmd := 0x00000009, result := 0xFFFFFFFF } ∧
    runCommand { board fresh with cmd := 0x00010001 } = .next { board fresh with cmd := 0x00010001, result := 0xFFFFFFFF } ∧
    (∃ i, decode ⟨0x00FF0004, 0xFFFF, 0, 0, 0, 0, 0⟩ = .ok i) ∧ (∃ i, decode ⟨0x00FF0003, 0x1FFF, 0, 0, 0, 0, 0⟩ = .ok i) :=
  ⟨rfl, rfl, rfl, ⟨_, rfl⟩, ⟨_, rfl⟩⟩

theorem witness_StepRunsTheIssuedCommand :
    let s := boardWith fresh [.access .foreground (.write 0x00 4 7), .interrupt]
    let u := { boardAt (running 2 2 0 0x300) (.cb 0 0 .seq) with inputs := [.access .callee (.write 0x00 4 9)] }
    s.hstate.issuer = some .foreground ∧ s.inputs = .access .foreground (.write 0x00 4 7) :: [.interrupt] ∧
    decode { s with cmd := 7 }.command = .ok (.getPeriodTicks 0) ∧
    u.hstate.issuer = some .callee ∧ u.inputs = .access .callee (.write 0x00 4 9) :: [] ∧
    decode { u with cmd := 9 }.command = .error .reservedOp := ⟨rfl, rfl, rfl, rfl, rfl, rfl⟩

theorem witness_PlacedWordRunsNext : decodeTableWord 32 0x00020005 = some (.disable 0 2) := by decide

theorem witness_PortAccessesMoveWholeWords :
    accessedReg 0x20 4 = some .rdata ∧ accessedReg 0x00 4 = some .cmd ∧
    accessedReg 0x24 4 = none ∧ accessedReg 0x21 4 = none ∧ accessedReg 0x20 2 = none := by decide

/-- The vector is off; nothing is pending; a callee that has not returned, with a request up. -/
theorem witness_NoInputNothingHappens :
    (State.reset.hstate.working = false ∧ State.reset.inputs = [] ∧ State.reset.irqEn = false) ∧
    ((board fresh).hstate.working = false ∧ (board fresh).inputs = [] ∧
      ∀ dev ∈ (board fresh).devices, dev.valid = false ∨ dev.pending = false) ∧
    (let s := boardAt { running 2 2 0 0x300 with pending := true } (.cb 0 0 .seq)
     s.hstate.working = false ∧ s.inputs = [] ∧ s.hstate ≠ .idle) := by decide

theorem witness_OutOfTurnAccessHasNoStep :
    let s := boardWith fresh [.access .callee (.read 0x1C 4)]
    s.hstate.working = false ∧ s.hstate.issuer ≠ some .callee ∧ s.inputs = .access .callee (.read 0x1C 4) :: [] := by
  decide

/-- V3, V4, V5. -/
theorem witness_SolveSplitsTheDivisor :
    solve 72000000 72000000 = some ⟨0, 0⟩ ∧ solve 72000000 72000001 = none ∧ solve 72000000 0 = none := by decide

/-- V14, V15, V16, V17, V18: each boundary of R81(f). -/
theorem witness_SolverBounds :
    solve 4294836224 1 = some ⟨65534, 65533⟩ ∧ solve 4294901760 1 = some ⟨65535, 65534⟩ ∧
    solve 4294967295 1 = some ⟨65535, 65534⟩ ∧ solve 4294901759 1 = some ⟨65534, 65534⟩ ∧
    solve 4294836223 1 = some ⟨65533, 65534⟩ := by decide

/-- V1 (exact) and V2 (not exact). -/
theorem witness_SolveNeverBelowRequest :
    solve 72000000 1000 = some ⟨1, 35999⟩ ∧ solve 72000000 1 = some ⟨1098, 65513⟩ := by decide

theorem witness_SetFrequencyCompletes :
    (board (running 3 3 0 0)).dev? (0 : Byte).toNat = some (running 3 3 0 0) ∧ (running 3 3 0 0).valid = true ∧
    (72000000 : Word) ≠ 0 ∧ (72000000 : Word) ≤ (running 3 3 0 0).timerClock ∧
    (0 : ChIdx).val < (running 3 3 0 0).nCh ∧ ((running 3 3 0 0).ch 0).cfg.enabled = true ∧
    ((running 3 3 0 0).ch 1).cfg.enabled = false ∧ ((running 3 3 0 0).ch 0).chcfg ≠ 0x0FFFFFFF ∧
    (board fresh).plat.countRule = .nonDisabled ∧
    (board fresh).dev? (0 : Byte).toNat = some fresh ∧ fresh.valid = true ∧
    ∀ i : ChIdx, i.val < fresh.nCh → (fresh.ch i).chcfg = 0x0FFFFFFF := by decide

theorem witness_SetFrequencyRejects :
    (board fresh).dev? (0 : Byte).toNat = some fresh ∧ fresh.valid = true ∧ fresh.timerClock < 72000001 := by decide

theorem witness_DutyToCompareScales :
    (35999 : Half).toNat % 2 = 1 ∧ (1 : Half).toNat ≤ (65535 : Half).toNat := by decide

theorem witness_ConfigureBranchWrites :
    let dev := fresh.setCh 0 (chan 0xE2088000)
    (dev.ch 0).selected false = true ∧ (dev.ch 0).cfg.configure = true := by decide

theorem witness_CheapPathWritesOnlyCompare :
    let dev := fresh.setCh 0 (chan 0x62088000)
    (dev.ch 0).selected false = true ∧ (dev.ch 0).cfg.configure = false := by decide

/-- A selected channel; one above `CH_COUNT`; one not selected. -/
theorem witness_CommitLoopAndTotals :
    let dev := { fresh.setCh 0 (chan 0xE2088000) with chCount := .two }
    (0 : ChIdx).val < dev.nCh ∧ (dev.ch 0).selected false = true ∧ dev.nCh ≤ (2 : ChIdx).val ∧
    (dev.ch 1).selected true = false := by decide

/-- V39, V35, V36: the three arms. -/
theorem witness_CounterPolicyArms :
    (board fresh).dev? 0 = some fresh ∧ enabledTotal .nonDisabled (commitLoop false fresh).1 = 0 ∧
    (let dev := fresh.setCh 0 (chan 0xE2088000)
     (board dev).dev? 0 = some dev ∧ enabledTotal .nonDisabled (commitLoop false dev).1 = 1 ∧
     (commitLoop false dev).2 = 1) ∧
    (let dev := (fresh.setCh 0 (chan 0x22088000)).setCh 1 (chan 0xE2094000)
     (board dev).dev? 0 = some dev ∧ enabledTotal .nonDisabled (commitLoop false dev).1 = 2 ∧
     (commitLoop false dev).2 = 1) := by decide

theorem witness_AddedChannelLeavesCounterAlone :
    (board (running 3 3 0x100 0)).dev? (0 : Byte).toNat = some (running 3 3 0x100 0) ∧
    (running 3 3 0x100 0).valid = true ∧ (running 3 3 0x100 0).Inv ∧ (3 : ChIdx).val = (3 : Byte).toNat ∧
    (3 : ChIdx).val < (running 3 3 0x100 0).nCh ∧ (0 : ChIdx) ≠ 3 ∧ (0 : ChIdx).val < (running 3 3 0x100 0).nCh ∧
    ((running 3 3 0x100 0).ch 0).cfg.enabled = true :=
  ⟨by decide, by decide, running_inv, by decide, by decide, by decide, by decide, by decide⟩

theorem witness_FirstEnableColdStarts :
    (board configured).dev? (0 : Byte).toNat = some configured ∧ configured.valid = true ∧
    (0 : ChIdx).val = (0 : Byte).toNat ∧ (0 : ChIdx).val < configured.nCh ∧ (configured.ch 0).cfg.configure = true ∧
    ∀ j : ChIdx, j ≠ 0 → (configured.ch j).chcfg = 0x0FFFFFFF := by decide

theorem witness_InitCompletes :
    (board fresh).dev? (1 : Byte).toNat = some Device.reset ∧ Device.reset.valid = false ∧ (0x40000800 : Word) ≠ 0 ∧
    timerOf (board fresh).plat 0x40000800 = some { chCount := .two, clock := 16000000, clock_pos := by decide } := by
  decide

/-- A valid slot; a slot index `N_DEV`; no handle; a handle outside the domain. -/
theorem witness_InitRejects :
    (∀ dev, (board fresh).dev? (0 : Byte).toNat = some dev → dev.valid = true) ∧
    (∀ dev, (board fresh).dev? (2 : Byte).toNat = some dev → dev.valid = true) ∧
    (board fresh).dev? (1 : Byte).toNat = some Device.reset ∧ Device.reset.valid = false ∧ (0xDEAD : Word) ≠ 0 ∧
    timerOf (board fresh).plat 0xDEAD = none := by
  refine ⟨?_, ?_, by decide⟩
  · intro dev h; cases h; rfl
  · intro dev h; cases h

theorem witness_ConfigureChannelCompletes :
    let s := { board fresh with pinAnswers := [.ok] }
    s.dev? (0 : Byte).toNat = some fresh ∧ fresh.valid = true ∧ (3 : ChIdx).val = (3 : Byte).toNat ∧
    (3 : ChIdx).val < fresh.nCh ∧ (movePin (fresh.ch 3) 0x08 2 s).1 = .ok := by decide

/-- Record 0 holds pin 0x08, record 1 none: no move; none to 0x09; 0x08 to none; 0x08 to 0x09; and each pair of answers. -/
theorem witness_ConfigureMovesThePin :
    let old := (configured.ch 0).cfg
    let none := (configured.ch 1).cfg
    (board configured).dev? (0 : Byte).toNat = some configured ∧ configured.valid = true ∧
    (0 : ChIdx).val = (0 : Byte).toNat ∧ (1 : ChIdx).val = (1 : Byte).toNat ∧ (1 : ChIdx).val < configured.nCh ∧
    ¬((0x08 : Byte) ≠ old.pin ∨ (2 : AltFn) ≠ old.af) ∧ none.pin = 0xFF ∧
    (0x09 : Byte) ≠ none.pin ∧ (0x09 : Byte) ≠ 0xFF ∧ (2 : AltFn) ≠ 0xF ∧
    old.pin ≠ 0xFF ∧ (0xFF : Byte) ≠ old.pin ∧ (0x09 : Byte) ≠ old.pin ∧
    (let s := { board configured with pinAnswers := [.fail] }; s.pinAnswerAt 0 = .fail) ∧
    (let s := { board configured with pinAnswers := [.ok, .fail] }; s.pinAnswerAt 0 = .ok ∧ s.pinAnswerAt 1 = .fail) ∧
    (let s := { board configured with pinAnswers := [.ok, .ok] }; s.pinAnswerAt 0 = .ok ∧ s.pinAnswerAt 1 = .ok) := by
  decide

theorem witness_ConfigureNeedsNoCommit :
    ∃ t, (boardWith fresh []).Inv ∧ (boardWith fresh []).plat.countRule = .nonDisabled ∧
      exec (.configureChannel 0 2 0xFF 0xF false 0 0x110 1 0 0) (boardWith fresh []) = .next t ∧ t.result = 0x00000000 :=
  ⟨_, board_inv fresh_inv [], rfl, rfl, rfl⟩

/-- The last channel, with `configure` set and clear. -/
theorem witness_EnableDutyCycleCompletes :
    let dev := fresh.setCh 3 (chan 0x8208FFFF)
    (board dev).dev? (0 : Byte).toNat = some dev ∧ dev.valid = true ∧ (3 : ChIdx).val = (3 : Byte).toNat ∧
    (3 : ChIdx).val < dev.nCh ∧ (dev.ch 3).cfg.configure = true ∧ (dev.ch 2).cfg.configure = false := by decide

theorem witness_EnableOfDisabledRecord :
    (board fresh).dev? (0 : Byte).toNat = some fresh ∧ fresh.valid = true ∧ (1 : ChIdx).val = (1 : Byte).toNat ∧
    (1 : ChIdx).val < fresh.nCh ∧ (fresh.ch 1).chcfg = 0x0FFFFFFF ∧
    ∀ j : ChIdx, (fresh.ch j).cfg.update = false := by decide

/-- Both answers of the pin-mux; the last record, and one of two. -/
theorem witness_DisableCompletes :
    let dev := running 3 3 0 0
    let two := dev.setCh 1 (chan 0x22094000)
    (board dev).dev? (0 : Byte).toNat = some dev ∧ dev.valid = true ∧ (0 : ChIdx).val = (0 : Byte).toNat ∧
    (0 : ChIdx).val < dev.nCh ∧ (∀ j : ChIdx, (dev.ch j).cfg.update = false) ∧
    (dev.ch 0).cfg.pin ≠ 0xFF ∧ (dev.ch 3).cfg.pin = 0xFF ∧
    { board dev with pinAnswers := [.ok] }.pinAnswerAt 0 = .ok ∧
    { board dev with pinAnswers := [.fail] }.pinAnswerAt 0 = .fail ∧
    (∀ j : ChIdx, j.val < dev.nCh → j ≠ 0 → (dev.ch j).chcfg = 0x0FFFFFFF) ∧
    (board two).plat.countRule = .nonDisabled ∧ (∀ j : ChIdx, (two.ch j).cfg.update = false) ∧
    ∃ j : ChIdx, j.val < two.nCh ∧ j ≠ 0 ∧ (two.ch j).chcfg ≠ 0x0FFFFFFF := by decide

theorem witness_DisableIsIdempotent :
    (board configured).dev? (0 : Byte).toNat = some configured ∧ configured.valid = true ∧
    (1 : ChIdx).val = (1 : Byte).toNat ∧ (1 : ChIdx).val < configured.nCh ∧
    (∀ j : ChIdx, (configured.ch j).cfg.update = false) ∧ (configured.ch 1).chcfg = 0x0FFFFFFF := by decide

theorem witness_ClockAndPeriodQueriesComplete :
    (board fresh).dev? (0 : Byte).toNat = some fresh ∧ fresh.valid = true := by decide

theorem witness_ResolutionQueryCompletes :
    (let dev := { fresh with reload := 0 }
     (board dev).dev? (0 : Byte).toNat = some dev ∧ dev.valid = true ∧ dev.reload = 0) ∧
    (let dev := { fresh with reload := 0x8000 }
     (board dev).dev? (0 : Byte).toNat = some dev ∧ dev.valid = true ∧ dev.reload ≠ 0) := by decide

/-- A slot that is not valid, and a slot index `N_DEV`. -/
theorem witness_DeadSlotAnswersNoDevice :
    (∀ d h, Instr.disable 1 0 ≠ .init d h) ∧
    (∀ dev, (board fresh).dev? (Instr.disable 1 0).dev.toNat = some dev → dev.valid = false) ∧
    (∀ dev, (board fresh).dev? (Instr.disable 2 0).dev.toNat = some dev → dev.valid = false) := by
  refine ⟨?_, ?_, ?_⟩
  · intro d h e; cases e
  · intro dev h; cases h; rfl
  · intro dev h; cases h

theorem witness_ChannelOutOfRangeRejected :
    (board fresh).dev? (0 : Byte).toNat = some fresh ∧ fresh.valid = true ∧ fresh.nCh ≤ (4 : Byte).toNat := by decide

/-- A configuration that fails, and a DISABLE whose pin release fails. -/
theorem witness_ErrorsLeaveTheBlock :
    (∃ t, exec (.configureChannel 0 0 0x30 1 false 5 0 0 0 0) { board fresh with pinAnswers := [.fail] } = .next t ∧
      t.result ≠ 0x00000000) ∧
    (∃ t, exec (.disable 0 0) { board configured with pinAnswers := [.fail] } = .next t ∧ t.result ≠ 0x00000000) :=
  ⟨⟨_, rfl, by decide⟩, ⟨_, rfl, by decide⟩⟩

theorem witness_CommandFrame :
    (∃ t, exec (.setFrequency 0 1000) (board (running 3 3 0 0)) = .next t) ∧
    (∃ t, exec (.init 1 0x40000800) (board fresh) = .next t) ∧
    (∃ t, exec (.getPeriodTicks 0) (board fresh) = .next t) := ⟨⟨_, rfl⟩, ⟨_, rfl⟩, ⟨_, rfl⟩⟩

theorem witness_ChannelCommandFrame :
    (board (running 3 3 0 0)).dev? (0 : Byte).toNat = some (running 3 3 0 0) ∧
    (∀ j : ChIdx, ((running 3 3 0 0).ch j).cfg.update = false) ∧
    (∃ t, exec (.disable 0 0) { board (running 3 3 0 0) with pinAnswers := [.ok] } = .next t) ∧
    (∃ t, exec (.enableDutyCycle 0 1 16384) (board (running 3 3 0 0)) = .next t) ∧
    (∃ t, exec (.configureChannel 0 1 0xFF 0xF false 0 0 0 0 0) (board (running 3 3 0 0)) = .next t) :=
  ⟨by decide, by decide, ⟨_, rfl⟩, ⟨_, rfl⟩, ⟨_, rfl⟩⟩

theorem witness_CommandsStopOnlyAtUnreachableInit :
    exec (.init 1 0xDEAD) (board fresh) = .fault .unreachablePeripheral := rfl

theorem witness_SlotIdentityIsPermanent :
    (∃ t, step (boardWith fresh [.access .foreground (.write 0x00 4 7)]) = .next t) ∧
    (boardWith fresh []).dev? 0 = some fresh ∧ fresh.valid = true ∧ (boardWith fresh []).irqEn = true :=
  ⟨⟨_, rfl⟩, by decide⟩

theorem witness_PeriodElapsedLatchesAndPends :
    (let s := boardWith (running 3 3 0 0) [.periodElapsed 0]
     s.hstate.working = false ∧ s.inputs = .periodElapsed 0 :: [] ∧ s.dev? 0 = some (running 3 3 0 0) ∧
     (running 3 3 0 0).valid = true ∧ (running 3 3 0 0).counterEn = true) ∧
    (let s := boardWith fresh [.periodElapsed 2]
     s.hstate.working = false ∧ s.inputs = .periodElapsed 2 :: [] ∧
     ∀ dev, s.dev? 2 = some dev → dev.valid = false ∨ dev.counterEn = false) := by
  refine ⟨by decide, rfl, rfl, ?_⟩
  intro dev h; cases h

/-- A staged write that waits, and a cold start that latches. -/
theorem witness_StagedValuesWaitForALatch :
    (∃ t dev', exec (.setFrequency 0 20000) (board (running 3 3 0 0)) = .next t ∧
      (board (running 3 3 0 0)).dev? 0 = some (running 3 3 0 0) ∧ t.dev? 0 = some dev') ∧
    (∃ t dev', exec (.enableDutyCycle 0 0 32768) (board configured) = .next t ∧
      (board configured).dev? 0 = some configured ∧ t.dev? 0 = some dev' ∧
      .counterReset 0 ∈ t.outputs.drop (board configured).outputs.length) :=
  ⟨⟨_, _, rfl, rfl, rfl⟩, ⟨_, _, rfl, rfl, rfl, by decide⟩⟩

theorem witness_CoalescedEventsCountOnce :
    ∃ t u, (boardWith (running 3 3 0 0) [.periodElapsed 0, .periodElapsed 0]).hstate.working = false ∧
      (boardWith (running 3 3 0 0) [.periodElapsed 0, .periodElapsed 0]).inputs =
        .periodElapsed 0 :: .periodElapsed 0 :: [] ∧
      step (boardWith (running 3 3 0 0) [.periodElapsed 0, .periodElapsed 0]) = .next t ∧ step t = .next u :=
  ⟨_, _, rfl, rfl, rfl, rfl⟩

/-- Each row of R113 from `SCAN` and from `CHAN`. -/
theorem witness_HandlerTransitionTable :
    (boardAt fresh (.scan 2)).hstate = .scan (boardAt fresh (.scan 2)).nDev ∧
    (fresh.valid = true ∧ fresh.pending = false) ∧ ({ fresh with pending := true }.pending = true) ∧
    (boardAt fresh (.chan 0 4)).hstate = .chan 0 fresh.nCh ∧
    (fresh.ch 0).cfg.enabled = false ∧
    (let c := (running 3 1 0x100 0x200).ch 0; c.cfg.enabled = true ∧ c.cycle = 1 ∧ c.seqCb ≠ 0) ∧
    (let c := (running 3 1 0x100 0).ch 0; c.cfg.enabled = true ∧ c.cycle = 1 ∧ c.seqCb = 0) ∧
    (let c := (running 0 0 0x100 0).ch 0; c.cfg.enabled = true ∧ c.cycle ≠ 1 ∧ c.cycleCb ≠ 0) ∧
    (let c := (running 3 2 0 0).ch 0; c.cfg.enabled = true ∧ c.cycle ≠ 1 ∧ c.cycleCb = 0) := by decide

/-- `CYCLE` 0 and 2; without and with a per-cycle callback. -/
theorem witness_OrdinaryPeriodCountsDownAndCallsBack :
    (let s := boardAt (running 0 0 0 0) (.chan 0 (0 : ChIdx).val)
     s.hstate = .chan 0 (0 : ChIdx).val ∧ s.dev? 0 = some (running 0 0 0 0) ∧ (0 : ChIdx).val < (running 0 0 0 0).nCh ∧
     ((running 0 0 0 0).ch 0).cfg.enabled = true ∧ ((running 0 0 0 0).ch 0).cycle ≠ 1 ∧
     ((running 0 0 0 0).ch 0).cycleCb = 0) ∧
    (let s := boardAt (running 3 2 0x100 0) (.chan 0 (0 : ChIdx).val)
     s.dev? 0 = some (running 3 2 0x100 0) ∧ 2 ≤ ((running 3 2 0x100 0).ch 0).cycle.toNat ∧
     ((running 3 2 0x100 0).ch 0).cycleCb ≠ 0) := by decide

theorem witness_TerminalPeriodRearmsThenCallsOrDisables :
    (let s := boardAt (running 3 1 0x100 0x200) (.chan 0 (0 : ChIdx).val)
     s.hstate = .chan 0 (0 : ChIdx).val ∧ s.dev? 0 = some (running 3 1 0x100 0x200) ∧
     (0 : ChIdx).val < (running 3 1 0x100 0x200).nCh ∧ ((running 3 1 0x100 0x200).ch 0).cfg.enabled = true ∧
     ((running 3 1 0x100 0x200).ch 0).cycle = 1 ∧ ((running 3 1 0x100 0x200).ch 0).seqCb ≠ 0) ∧
    (let s := boardAt (running 3 1 0x100 0) (.chan 0 (0 : ChIdx).val)
     s.dev? 0 = some (running 3 1 0x100 0) ∧ ((running 3 1 0x100 0).ch 0).cycle = 1 ∧
     ((running 3 1 0x100 0).ch 0).seqCb = 0) := by decide

/-- The request is up; the handler is in a callback window; nothing is pending. -/
theorem witness_InterruptEntry :
    (let s := boardWith { fresh with pending := true } [.interrupt]
     s.hstate.working = false ∧ s.inputs = .interrupt :: [] ∧ s.hstate = .idle ∧ s.irqEn = true ∧
     ∃ dev ∈ s.devices, dev.valid = true ∧ dev.pending = true) ∧
    (let s := { boardAt (running 2 2 0 0x300) (.cb 0 0 .seq) with inputs := [.interrupt] }
     s.hstate.working = false ∧ s.inputs = .interrupt :: [] ∧ s.hstate ≠ .idle) ∧
    (let s := boardWith fresh [.interrupt]
     s.inputs = .interrupt :: [] ∧ ∀ dev ∈ s.devices, dev.valid = false ∨ dev.pending = false) ∧
    (let s := board { fresh with pending := true }
     s.inputs = [] ∧ s.hstate = .idle ∧ s.irqEn = true ∧ ∃ dev ∈ s.devices, dev.valid = true ∧ dev.pending = true) := by
  decide

/-- The last clause of `InterruptEntry`: a run that uses up two inputs. -/
theorem witness_InterruptEntry_inputs_used_up :
    (boardWith (running 3 3 0 0) [.periodElapsed 0, .interrupt]).hstate.working = false ∧
    ∃ t, Sys2Proof.core.run 2 (boardWith (running 3 3 0 0) [.periodElapsed 0, .interrupt]) = .next t := ⟨rfl, _, rfl⟩

theorem witness_CalleeReturnResumesAtNextChannel :
    let s := { boardAt (running 2 2 0 0x300) (.cb 0 0 .seq) with inputs := [.calleeReturn] }
    s.hstate = .cb 0 0 .seq ∧ s.inputs = .calleeReturn :: [] := ⟨rfl, rfl⟩

theorem witness_SegmentsEnd : ∃ t, step (boardAt (running 3 3 0x100 0) (.scan 0)) = .next t := ⟨_, rfl⟩

theorem witness_SpuriousInvocationWritesNothing :
    let s := boardWith fresh [.spurious]
    s.hstate = .idle ∧ s.irqEn = true ∧ (∀ dev ∈ s.devices, dev.valid = false ∨ dev.pending = false) ∧
    s.inputs = .spurious :: [] := by decide

theorem noCallbacks_board {dev : Device} (h : ∀ i : ChIdx, (dev.ch i).cycleCb = 0 ∧ (dev.ch i).seqCb = 0)
    (l : List Input) : (boardWith dev l).NoCallbacks := by
  intro e he
  simp only [boardWith, board, List.mem_cons, List.not_mem_nil, or_false] at he
  obtain rfl | rfl := he
  · exact h
  · decide

theorem witness_InvocationIsTheNestedLoops :
    let s := boardWith { running 3 1 0 0 with pending := true } [.interrupt]
    s.hstate = .idle ∧ s.irqRequest = true ∧ s.NoCallbacks ∧ s.inputs = .interrupt :: [] :=
  ⟨rfl, by decide, noCallbacks_board (by decide) _, rfl⟩

/-- `N = 3`: after 2 of the events (`k < N`), and after all 3 (`k = N`). -/
theorem witness_BoundedSequenceEndsAfterExactlyN :
    let dev := running 3 3 0 0
    let s := boardWith dev (servedEvents 0 3 ++ [])
    let u := boardWith dev (servedEvents 0 2 ++ [])
    s.hstate = .idle ∧ s.irqEn = true ∧ s.NoCallbacks ∧ s.dev? 0 = some dev ∧ dev.valid = true ∧ dev.counterEn = true ∧
    (0 : ChIdx).val < dev.nCh ∧ (dev.ch 0).cfg.enabled = true ∧ (dev.ch 0).cycle = (dev.ch 0).cycleCount ∧
    (dev.ch 0).cycleCount ≠ 0 ∧ s.inputs = servedEvents 0 3 ++ [] ∧ 3 = (dev.ch 0).cycleCount.toNat ∧
    u.inputs = servedEvents 0 2 ++ [] ∧ u.NoCallbacks ∧ 2 < (dev.ch 0).cycleCount.toNat :=
  ⟨rfl, rfl, noCallbacks_board (by decide) _, by decide, rfl, rfl, by decide, by decide, by decide, by decide, rfl,
    by decide, rfl, noCallbacks_board (by decide) _, by decide⟩

theorem witness_UnboundedSequenceNeverEnds :
    (boardAt (running 0 0 0x100 0x200) (.scan 0)).dev? 0 = some (running 0 0 0x100 0x200) ∧
    ((running 0 0 0x100 0x200).ch 0).cfg.enabled = true ∧ ((running 0 0 0x100 0x200).ch 0).cycle = 0 := by decide

/-- A position in range; a slot that is not valid; a slot between atomic steps. -/
theorem witness_HandlerSegmentFrame :
    (boardAt fresh (.chan 0 4)).hstate.InRange (boardAt fresh (.chan 0 4)) ∧
    (boardAt fresh (.chan 0 4)).dev? 1 = some Device.reset ∧ Device.reset.valid = false ∧
    (boardAt fresh (.chan 0 4)).dev? 0 = some fresh ∧ ∀ j : ChIdx, (fresh.ch j).cfg.update = false :=
  ⟨⟨fresh, by decide⟩, by decide⟩

theorem witness_EveryStepKeepsTheInvariant :
    (boardWith (running 3 3 0x100 0) [.access .foreground (.write 0x00 4 5)]).Inv ∧
    ∃ t, step (boardWith (running 3 3 0x100 0) [.access .foreground (.write 0x00 4 5)]) = .next t :=
  ⟨board_inv running_inv _, ⟨_, rfl⟩⟩

/-- A power-on state whose unspecified registers hold anything. -/
theorem poweredOn_junk : State.PoweredOn { State.powerOn plat 1 with
    devices := [{ running 5 9 1 1 with valid := false, pending := true }], result := 7, rdata := 9
    inputs := [.interrupt] } :=
  ⟨by simp, rfl, rfl, by decide⟩

theorem witness_PowerOnMeetsTheInvariant : ∃ s : State, s.PoweredOn := ⟨_, poweredOn_junk⟩

theorem witness_PowerOnAcceptsOnlyInit :
    ∃ (s : State), s.PoweredOn ∧ (∀ d h, Instr.disable 0 0 ≠ .init d h) ∧ s.inputs = .interrupt :: [] :=
  ⟨_, poweredOn_junk, (by intro d h e; cases e), rfl⟩

theorem witness_PinsStayConsistent :
    let s := boardWith (running 3 3 0x100 0) []
    (Instr.configureChannel 0 1 0xFF 0xF false 0 0 0 0 0).wellFormed = true ∧ s.PinsConsistent ∧
    ∃ t, exec (.configureChannel 0 1 0xFF 0xF false 0 0 0 0 0) s = .next t := by
  refine ⟨by decide, ?_, ⟨_, rfl⟩⟩
  intro e he hv i
  simp only [boardWith, board, List.mem_cons, List.not_mem_nil, or_false] at he
  obtain rfl | rfl := he
  · revert i; decide
  · exact absurd hv (by decide)

end Sys2Proof.Tests
end

section
/-! PROOFS. What the commands may write: each leaves the slots, or writes the one slot it names
(spec/44_channel_commands.md, spec/40_divisor_solver.md). The frame of every command follows. -/

namespace Sys2Proof.Machine

/-! ### Writing one slot -/

/-- `t` has the slots of `s` but for slot `d`, which was `dev` and is `dev'`. -/
structure State.SlotWritten (s t : State) (d : Nat) (dev dev' : Device) : Prop where
  old : s.dev? d = some dev
  devices : t.devices = s.devices.set d dev'

/-- A position stays in range where every valid slot stays valid and keeps its channels. -/
theorem HState.InRange.mono {s t : State} {h : HState} (hr : h.InRange s) (hn : t.nDev = s.nDev)
    (hslot : ∀ d x, s.dev? d = some x → x.valid = true → ∃ y, t.dev? d = some y ∧ y.valid = true ∧ y.nCh = x.nCh) :
    h.InRange t := by
  cases h with
  | idle => trivial
  | scan d => exact hr.trans_eq hn.symm
  | chan d j | cb d j kind =>
    obtain ⟨x, hx, hv, hj⟩ := hr
    obtain ⟨y, hy, hyv, hch⟩ := hslot d x hx hv
    exact ⟨y, hy, hyv, hj.trans_eq hch.symm⟩

section SlotWritten

variable {s t : State} {d : Nat} {dev dev' : Device}

theorem State.SlotWritten.dev?_same (h : s.SlotWritten t d dev dev') : t.dev? d = some dev' := by
  have := State.dev?_setDev_same h.old dev'
  rwa [State.dev?, State.setDev_devices, ← h.devices] at this

theorem State.SlotWritten.dev?_ne (h : s.SlotWritten t d dev dev') {e : Nat} (he : e ≠ d) : t.dev? e = s.dev? e := by
  rw [State.dev?, h.devices]
  exact s.dev?_setDev_ne he dev'

theorem State.SlotWritten.nDev_eq (h : s.SlotWritten t d dev dev') : t.nDev = s.nDev := by
  rw [State.nDev, h.devices]
  exact List.length_set

theorem State.mem_of_dev? (h : s.dev? d = some dev) : dev ∈ s.devices := List.mem_of_getElem? h

/-- What holds of every valid slot still does after a write that makes it hold of the slot written. -/
theorem State.SlotWritten.forall_valid {P : Device → Prop} (h : s.SlotWritten t d dev dev')
    (hs : ∀ e ∈ s.devices, e.valid = true → P e) (hnew : dev'.valid = true → P dev') :
    ∀ e ∈ t.devices, e.valid = true → P e := by
  intro e he hv
  rw [h.devices] at he
  obtain he | rfl := List.mem_or_eq_of_mem_set he
  · exact hs e he hv
  · exact hnew hv

/-- A position stays in range where the slot written keeps its channels. -/
theorem State.SlotWritten.inRange {h : HState} (hw : s.SlotWritten t d dev dev')
    (hkeep : dev.valid = true → dev'.valid = true ∧ dev'.nCh = dev.nCh) (hr : h.InRange s) : h.InRange t := by
  have hslot {e : Nat} {x : Device} (hx : s.dev? e = some x) (hv : x.valid = true) :
      ∃ y, t.dev? e = some y ∧ y.valid = true ∧ y.nCh = x.nCh := by
    by_cases he : e = d
    · subst e
      obtain rfl : dev = x := Option.some.inj (hw.old.symm.trans hx)
      exact ⟨dev', hw.dev?_same, hkeep hv⟩
    · exact ⟨x, (hw.dev?_ne he).trans hx, hv, rfl⟩
  exact hr.mono hw.nDev_eq fun _ _ => hslot

end SlotWritten

/-! ### What a command may write -/

/-- What a command may make of the slot it names, on platform `p` (spec/44_channel_commands.md R131, R134, R137, R140,
spec/40_divisor_solver.md R84); the queries write none. -/
inductive SlotWrite (p : Platform) (dev : Device) : Instr → Device → Prop
  | init {d : Byte} {handle : Word} (m : TimerModel) (hv : dev.valid = false) :
      SlotWrite p dev (.init d handle) (dev.init handle m)
  | setFrequency {d : Byte} {f : Word} (r : DivisorPair) :
      SlotWrite p dev (.setFrequency d f)
        (commitDevice p true { dev with prescale := r.prescale, reload := r.reload }).1
  | configureChannel {d ch pin : Byte} {af : AltFn} {inv : Bool} {n ccb cdata scb sdata : Word} {k : ChIdx}
      (hk : k.val < dev.nCh) :
      SlotWrite p dev (.configureChannel d ch pin af inv n ccb cdata scb sdata)
        (dev.setCh k ((dev.ch k).configured pin af inv n ccb cdata scb sdata))
  | enableDutyCycle {d ch : Byte} {duty : Half} {k : ChIdx} (hk : k.val < dev.nCh) :
      SlotWrite p dev (.enableDutyCycle d ch duty) (commitDevice p false (dev.setCh k ((dev.ch k).enable duty))).1
  | disable {d ch : Byte} {k : ChIdx} (hk : k.val < dev.nCh) :
      SlotWrite p dev (.disable d ch) (commitDevice p false (dev.setCh k (dev.ch k).clear)).1

/-- The command writes `RDATA` where it answers `OK` (spec/43_queries.md R123). -/
def isQuery : Instr → Bool
  | .getClockFrequency _ | .getPeriodTicks _ | .getResolutionBits _ => true
  | _ => false

/-- `IRQ_EN` after a command that writes its slot: INIT sets it (spec/44_channel_commands.md R131). -/
def irqEnAfter (irqEn : Bool) : Instr → Bool
  | .init _ _ => true
  | _ => irqEn

/-- What a command can do, all commands together: it leaves the slots, or it writes the slot it names. -/
structure CommandEffect (i : Instr) (s t : State) : Prop where
  frame : t = { s with
    result := t.result, rdata := t.rdata, devices := t.devices, irqEn := t.irqEn, pinAnswers := t.pinAnswers
    pinDraws := t.pinDraws, outputs := t.outputs }
  rdata : isQuery i = false → t.rdata = s.rdata
  slots : (t.devices = s.devices ∧ t.irqEn = s.irqEn) ∨
    ∃ dev dev', s.SlotWritten t i.dev.toNat dev dev' ∧ SlotWrite s.plat dev i dev' ∧ t.irqEn = irqEnAfter s.irqEn i

theorem CommandEffect.result_only (i : Instr) (s : State) (code : Word) : CommandEffect i s { s with result := code } :=
  ⟨rfl, fun _ => rfl, .inl ⟨rfl, rfl⟩⟩

theorem CommandEffect.query {i : Instr} (hi : isQuery i = true) (s : State) (v code : Word) :
    CommandEffect i s { s with rdata := v, result := code } :=
  ⟨rfl, fun h => absurd hi (by simp [h]), .inl ⟨rfl, rfl⟩⟩

theorem CommandEffect.hstate_eq {i : Instr} {s t : State} (h : CommandEffect i s t) : t.hstate = s.hstate := by
  rw [h.frame]

theorem CommandEffect.irqEn_of_irqEn {i : Instr} {s t : State} (h : CommandEffect i s t) (hs : s.irqEn = true) :
    t.irqEn = true := by
  obtain ⟨-, hi⟩ | ⟨-, -, -, -, hi⟩ := h.slots
  · rw [hi, hs]
  · rw [hi, hs]
    cases i <;> rfl

/-- COMMIT on a slot just written: the slot is the commit of what was written (spec/41_commit_engine.md R91). -/
theorem commit_setDev {s : State} {d : Nat} {dev : Device} (u : Bool) (h : s.dev? d = some dev) (dev₁ : Device) :
    commit d u (s.setDev d dev₁) = { s with
      devices := s.devices.set d (commitDevice s.plat u dev₁).1
      outputs := s.outputs ++ if (commitDevice s.plat u dev₁).2 then [.counterReset d] else [] } := by
  rw [commit_eq u (State.dev?_setDev_same h dev₁), State.setDev_devices, List.set_set]
  rfl

/-- DISABLE_CH on the slots: the commit of the slot with the channel cleared (spec/44_channel_commands.md R140). -/
theorem disableChannel_devices {s : State} {d : Nat} {dev : Device} (k : ChIdx) (h : s.dev? d = some dev) :
    (disableChannel d k s).2.devices =
      s.devices.set d (commitDevice s.plat false (dev.setCh k (dev.ch k).clear)).1 := by
  have hb := (unassignPin_spec (dev.ch k).cfg.pin s).1
  rw [disableChannel_eq k h]
  dsimp only
  rw [commit_setDev false ((hb.dev?_eq d).trans h), hb.plat_eq, hb.devices_eq]

theorem execInit_effect {d : Byte} {h : Word} {s t : State} (e : execInit d h s = .next t) :
    CommandEffect (Instr.init d h) s t := by
  obtain ⟨rfl, -⟩ | ⟨dev, hd, hv, ⟨-, rfl⟩ | ⟨-, m, -, rfl⟩⟩ := execInit_next e
  · exact .result_only _ s _
  · exact .result_only _ s _
  · exact ⟨rfl, fun _ => rfl, .inr ⟨dev, _, ⟨hd, rfl⟩, .init m hv, rfl⟩⟩

theorem execSetFrequency_effect {d : Byte} {f : Word} {s t : State} (e : execSetFrequency d f s = .next t) :
    CommandEffect (Instr.setFrequency d f) s t := by
  obtain rfl | ⟨dev, hd, -, ⟨-, rfl⟩ | ⟨r, -, rfl⟩⟩ := execSetFrequency_next e
  · exact .result_only _ s _
  · exact .result_only _ s _
  · rw [commit_setDev true hd]
    exact ⟨rfl, fun _ => rfl, .inr ⟨dev, _, ⟨hd, rfl⟩, .setFrequency r, rfl⟩⟩

theorem execConfigureChannel_effect {d ch pin : Byte} {af : AltFn} {inv : Bool} {n ccb cdata scb sdata : Word}
    {s t : State} (e : execConfigureChannel d ch pin af inv n ccb cdata scb sdata s = .next t) :
    CommandEffect (Instr.configureChannel d ch pin af inv n ccb cdata scb sdata) s t := by
  obtain rfl | ⟨dev, hd, -, rfl | ⟨k, hk, hlt, ⟨-, rfl⟩ | ⟨-, rfl⟩⟩⟩ := execConfigureChannel_next e
  · exact .result_only _ s _
  · exact .result_only _ s _
  all_goals
    have hb := (movePin_spec (dev.ch k) pin af s).1
    rw [State.SameBlock] at hb
    rw [hb]
  · exact ⟨rfl, fun _ => rfl, .inl ⟨rfl, rfl⟩⟩
  · exact ⟨rfl, fun _ => rfl, .inr ⟨dev, _, ⟨hd, rfl⟩, .configureChannel (hk ▸ hlt), rfl⟩⟩

theorem execEnableDutyCycle_effect {d ch : Byte} {duty : Half} {s t : State}
    (e : execEnableDutyCycle d ch duty s = .next t) : CommandEffect (Instr.enableDutyCycle d ch duty) s t := by
  obtain rfl | ⟨dev, hd, -, rfl | ⟨k, hk, hlt, rfl⟩⟩ := execEnableDutyCycle_next e
  · exact .result_only _ s _
  · exact .result_only _ s _
  · rw [commit_setDev false hd]
    exact ⟨rfl, fun _ => rfl, .inr ⟨dev, _, ⟨hd, rfl⟩, .enableDutyCycle (hk ▸ hlt), rfl⟩⟩

theorem execDisable_effect {d ch : Byte} {s t : State} (e : execDisable d ch s = .next t) :
    CommandEffect (Instr.disable d ch) s t := by
  obtain rfl | ⟨dev, hd, -, rfl | ⟨k, hk, hlt, rfl⟩⟩ := execDisable_next e
  · exact .result_only _ s _
  · exact .result_only _ s _
  · rw [disableChannel_frame, disableChannel_devices k hd]
    exact ⟨rfl, fun _ => rfl, .inr ⟨dev, _, ⟨hd, rfl⟩, .disable (hk ▸ hlt), rfl⟩⟩

/-- A command that answers a next state has one of the listed effects. -/
theorem exec_effect {i : Instr} {s t : State} (e : exec i s = .next t) : CommandEffect i s t := by
  cases i with
  | init d h => exact execInit_effect e
  | setFrequency d f => exact execSetFrequency_effect e
  | configureChannel d ch pin af inv n ccb cdata scb sdata => exact execConfigureChannel_effect e
  | enableDutyCycle d ch duty => exact execEnableDutyCycle_effect e
  | disable d ch => exact execDisable_effect e
  | getClockFrequency d =>
    obtain rfl | ⟨dev, -, -, rfl⟩ := execGetClockFrequency_next e
    · exact .result_only _ s _
    · exact .query rfl s _ _
  | getPeriodTicks d =>
    obtain rfl | ⟨dev, -, -, rfl⟩ := execGetPeriodTicks_next e
    · exact .result_only _ s _
    · exact .query rfl s _ _
  | getResolutionBits d =>
    obtain rfl | ⟨dev, -, -, rfl⟩ := execGetResolutionBits_next e
    · exact .result_only _ s _
    · exact .query rfl s _ _

/-! ### COMMIT on the fields the invariants read -/

section CommitDevice

variable (p : Platform) (u : Bool) (dev : Device)

@[simp] theorem commitDevice_valid : (commitDevice p u dev).1.valid = dev.valid := (commitDevice_frame p u dev).1

@[simp] theorem commitDevice_nCh : (commitDevice p u dev).1.nCh = dev.nCh :=
  congrArg channelsOf (commitDevice_frame p u dev).2.2.1

@[simp] theorem commitDevice_timerClock : (commitDevice p u dev).1.timerClock = dev.timerClock :=
  (commitDevice_frame p u dev).2.2.2.1

/-- `PENDING` is written by the forced update event only (spec/20_memory.md R47, spec/41_commit_engine.md R95). -/
theorem commitDevice_pending :
    (commitDevice p u dev).1.pending = dev.pending ∨
      p.forceUpdatePends = true ∧ (commitDevice p u dev).1.pending = true := by
  have hf : (commitLoop u dev).1.pending = dev.pending := by rw [commitLoop_frame]
  obtain ⟨-, h⟩ | ⟨-, -, h⟩ | ⟨-, -, h⟩ := commitDevice_cases p u dev <;> rw [h]
  · exact .inl hf
  · cases hp : p.forceUpdatePends with
    | false => exact .inl (by simpa [Device.restart] using hf)
    | true => exact .inr ⟨rfl, by simp [Device.restart]⟩
  · exact .inl hf

variable (i : ChIdx)

theorem commitDevice_chcfg : ((commitDevice p u dev).1.ch i).chcfg = ((commitLoop u dev).1.ch i).chcfg := by
  rw [commitDevice_ch]

@[simp] theorem commitDevice_disabled : ((commitDevice p u dev).1.ch i).disabled = (dev.ch i).disabled := by
  rw [Channel.disabled, commitDevice_chcfg, ← Channel.disabled, commitLoop_ch]
  split
  · exact Channel.committed_disabled _ _ _
  · rfl

/-- COMMIT neither disables a record nor brings one back (spec/10_state.md R22). -/
theorem commitDevice_sentinel_iff :
    ((commitDevice p u dev).1.ch i).chcfg = Config.sentinel ↔ (dev.ch i).chcfg = Config.sentinel := by
  rw [← Channel.disabled_iff, ← Channel.disabled_iff, commitDevice_disabled]

/-- COMMIT writes no pin assignment (spec/41_commit_engine.md R92, R93). -/
theorem commitDevice_pin_af :
    ((commitDevice p u dev).1.ch i).cfg.pin = (dev.ch i).cfg.pin ∧
      ((commitDevice p u dev).1.ch i).cfg.af = (dev.ch i).cfg.af := by
  rw [Channel.cfg, commitDevice_chcfg, ← Channel.cfg, commitLoop_ch]
  split
  · rw [Channel.committed_cfg]
    split <;> exact ⟨rfl, rfl⟩
  · exact ⟨rfl, rfl⟩

end CommitDevice

/-! ### The frame of every command -/

/-- The registers of its slot a command other than INIT leaves alone (spec/10_state.md R11, R14, R15). -/
theorem SlotWrite.identity {p : Platform} {dev dev' : Device} {i : Instr} (h : SlotWrite p dev i dev')
    (hi : ∀ d w, i ≠ .init d w) :
    dev'.valid = dev.valid ∧ dev'.handle = dev.handle ∧ dev'.chCount = dev.chCount ∧
      dev'.timerClock = dev.timerClock := by
  have hcommit (u : Bool) (dev : Device) :
      let r := (commitDevice p u dev).1
      r.valid = dev.valid ∧ r.handle = dev.handle ∧ r.chCount = dev.chCount ∧ r.timerClock = dev.timerClock := by
    obtain ⟨hv, hh, hc, ht, -, -⟩ := commitDevice_frame p u dev
    exact ⟨hv, hh, hc, ht⟩
  cases h with
  | init => exact absurd rfl (hi _ _)
  | configureChannel => exact ⟨rfl, rfl, rfl, rfl⟩
  | setFrequency | enableDutyCycle | disable => exact hcommit _ _

/-- A command leaves a valid slot valid, with its channels: INIT writes only a slot that is not valid. -/
theorem SlotWrite.keeps_valid {p : Platform} {dev dev' : Device} {i : Instr} (h : SlotWrite p dev i dev')
    (hv : dev.valid = true) : dev'.valid = true ∧ dev'.nCh = dev.nCh := by
  have hne (d : Byte) (w : Word) : i ≠ .init d w := by
    rintro rfl
    cases h with
    | init m hinv => simp [hinv] at hv
  obtain ⟨hvalid, -, hcount, -⟩ := h.identity hne
  exact ⟨hvalid.trans hv, congrArg channelsOf hcount⟩

/-- Only SET_FREQUENCY writes the staged divisors (spec/20_memory.md R49). -/
theorem SlotWrite.divisors {p : Platform} {dev dev' : Device} {i : Instr} (h : SlotWrite p dev i dev')
    (hi : ∀ d f, i ≠ .setFrequency d f) : dev'.prescale = dev.prescale ∧ dev'.reload = dev.reload := by
  have hcommit (u : Bool) (dev : Device) :
      (commitDevice p u dev).1.prescale = dev.prescale ∧ (commitDevice p u dev).1.reload = dev.reload := by
    obtain ⟨-, -, -, -, hp, hr⟩ := commitDevice_frame p u dev
    exact ⟨hp, hr⟩
  cases h with
  | setFrequency => exact absurd rfl (hi _ _)
  | init | configureChannel => exact ⟨rfl, rfl⟩
  | enableDutyCycle | disable => exact hcommit _ _

/-- A command writes `PENDING` only by the forced update event of a commit (spec/20_memory.md R47). -/
theorem SlotWrite.pending {p : Platform} {dev dev' : Device} {i : Instr} (h : SlotWrite p dev i dev') :
    dev'.pending = dev.pending ∨ p.forceUpdatePends = true ∧ dev'.pending = true := by
  cases h with
  | init | configureChannel => exact .inl rfl
  | setFrequency | enableDutyCycle | disable => exact commitDevice_pending _ _ _

theorem isQuery_eq_false {i : Instr} (h₁ : ∀ d, i ≠ .getClockFrequency d) (h₂ : ∀ d, i ≠ .getPeriodTicks d)
    (h₃ : ∀ d, i ≠ .getResolutionBits d) : isQuery i = false := by
  cases i with
  | getClockFrequency d => exact absurd rfl (h₁ d)
  | getPeriodTicks d => exact absurd rfl (h₂ d)
  | getResolutionBits d => exact absurd rfl (h₃ d)
  | _ => rfl

theorem irqEnAfter_eq {i : Instr} (h : ∀ d w, i ≠ .init d w) (b : Bool) : irqEnAfter b i = b := by
  cases i with
  | init d w => exact absurd rfl (h d w)
  | _ => rfl

/-- `IRQ_EN` is 1 after an INIT that writes its slot (spec/10_state.md R32). -/
theorem irqEnAfter_or (b : Bool) (i : Instr) : irqEnAfter b i = true ∨ ∀ d w, i ≠ .init d w := by
  cases i with
  | init => exact .inl rfl
  | _ => exact .inr nofun

/-- Settles O38: a command is quiet or writes the slot it names, and each write keeps the registers listed. -/
theorem commandFrame : Obligations.CommandFrame := by
  intro i s t e
  obtain ⟨hframe, hrdata, ⟨hdev, hirq⟩ | ⟨dev, dev', hs, hw, hirq⟩⟩ := exec_effect e
  · have hdev? (n : Nat) : t.dev? n = s.dev? n := congrArg (·[n]?) hdev
    exact ⟨hframe, congrArg List.length hdev, fun n _ => hdev? n,
      fun h₁ h₂ h₃ => hrdata (isQuery_eq_false h₁ h₂ h₃), fun _ => hirq,
      fun dev hd => ⟨dev, (hdev? _).trans hd, fun _ => ⟨rfl, rfl, rfl, rfl⟩, fun _ => ⟨rfl, rfl⟩, .inl rfl⟩⟩
  · refine ⟨hframe, hs.nDev_eq, fun _ he => hs.dev?_ne he, fun h₁ h₂ h₃ => hrdata (isQuery_eq_false h₁ h₂ h₃),
      fun hi => hirq.trans (irqEnAfter_eq hi _), fun dev₀ hd₀ => ?_⟩
    obtain rfl : dev = dev₀ := Option.some.inj (hs.old.symm.trans hd₀)
    exact ⟨dev', hs.dev?_same, hw.identity, hw.divisors, hw.pending⟩

end Sys2Proof.Machine
end


section
/-! PROOFS. What the transitions of the handler may write: each leaves the slots, or writes one slot
(spec/42_countdown_handler.md R113). That pins stay consistent (spec/10_state.md R33(a)) follows. -/

namespace Sys2Proof.Machine

/-! ### What a transition of the handler may write -/

/-- The channel with `CYCLE` at `x` (spec/10_state.md R29). -/
def Channel.withCycle (c : Channel) (x : Word) : Channel := { c with cycle := x }

/-- What a transition may make of a slot (spec/42_countdown_handler.md R101, R104 to R106): the pending flag cleared, a
countdown, a re-arm, or a re-arm and the automatic disable. -/
inductive HandlerWrite (p : Platform) (dev : Device) : Device → Prop
  | serve : HandlerWrite p dev { dev with pending := false }
  | count {k : ChIdx} (hk : k.val < dev.nCh) :
      HandlerWrite p dev (dev.setCh k ((dev.ch k).withCycle (countDown (dev.ch k).cycle)))
  | rearm {k : ChIdx} (hk : k.val < dev.nCh) :
      HandlerWrite p dev (dev.setCh k ((dev.ch k).withCycle (dev.ch k).cycleCount))
  | expire {k : ChIdx} (hk : k.val < dev.nCh) :
      HandlerWrite p dev (commitDevice p false (dev.setCh k ((dev.ch k).withCycle (dev.ch k).cycleCount).clear)).1

/-- The rows of R113: the position a transition from `s` leads to, and the slots after it. -/
inductive HandlerMove (s : State) : HState → List Device → Prop
  | wait (hs : s.hstate.working = false) : HandlerMove s s.hstate s.devices
  | finish {d : Nat} (hs : s.hstate = .scan d) : HandlerMove s .idle s.devices
  | skip {d : Nat} (hs : s.hstate = .scan d) (hd : d < s.nDev) : HandlerMove s (.scan (d + 1)) s.devices
  | serve {d : Nat} {dev : Device} (hs : s.hstate = .scan d) (hd : s.dev? d = some dev) (hv : dev.valid = true) :
      HandlerMove s (.chan d 0) (s.devices.set d { dev with pending := false })
  | leave {d j : Nat} (hs : s.hstate = .chan d j) : HandlerMove s (.scan (d + 1)) s.devices
  | pass {d j : Nat} {dev : Device} (hs : s.hstate = .chan d j) (hd : s.dev? d = some dev) (hj : j < dev.nCh) :
      HandlerMove s (.chan d (j + 1)) s.devices
  | next {d j : Nat} {dev dev' : Device} (hs : s.hstate = .chan d j) (hd : s.dev? d = some dev) (hj : j < dev.nCh)
      (hw : HandlerWrite s.plat dev dev') : HandlerMove s (.chan d (j + 1)) (s.devices.set d dev')
  | call {d j : Nat} {dev dev' : Device} {kind : CallbackKind} (hs : s.hstate = .chan d j) (hd : s.dev? d = some dev)
      (hj : j < dev.nCh) (hw : HandlerWrite s.plat dev dev') : HandlerMove s (.cb d j kind) (s.devices.set d dev')

theorem Device.setCh_setCh_same (dev : Device) (i : ChIdx) (a b : Channel) :
    (dev.setCh i a).setCh i b = dev.setCh i b := by
  simp [Device.setCh]

theorem scanDevice_move {s : State} {d : Nat} (hs : s.hstate = .scan d) :
    HandlerMove s (scanDevice d s).hstate (scanDevice d s).devices := by
  unfold scanDevice
  split
  · exact .finish hs
  · next dev hd =>
    split
    · next hr => exact .serve hs hd (by simp_all [Device.requests])
    · exact .skip hs (State.dev?_lt hd)

theorem terminalPeriod_move {s : State} {d : Nat} {k : ChIdx} {dev : Device} (hs : s.hstate = .chan d k.val)
    (hd : s.dev? d = some dev) (hk : k.val < dev.nCh) :
    HandlerMove s (terminalPeriod d k dev s).hstate (terminalPeriod d k dev s).devices := by
  unfold terminalPeriod
  dsimp only
  split
  · rw [State.goto_devices, disableChannel_devices k (State.dev?_setDev_same hd _), State.setDev_devices,
      List.set_set, Device.ch_setCh_same, Device.setCh_setCh_same]
    exact .next hs hd hk (.expire hk)
  · exact .call hs hd hk (.rearm hk)

theorem ordinaryPeriod_move {s : State} {d : Nat} {k : ChIdx} {dev : Device} (hs : s.hstate = .chan d k.val)
    (hd : s.dev? d = some dev) (hk : k.val < dev.nCh) :
    HandlerMove s (ordinaryPeriod d k dev s).hstate (ordinaryPeriod d k dev s).devices := by
  unfold ordinaryPeriod
  dsimp only
  split
  · exact .next hs hd hk (.count hk)
  · exact .call hs hd hk (.count hk)

theorem scanChannel_move {s : State} {d j : Nat} (hs : s.hstate = .chan d j) :
    HandlerMove s (scanChannel d j s).hstate (scanChannel d j s).devices := by
  unfold scanChannel
  split
  · exact .leave hs
  · next dev hd =>
    split
    · next hj =>
      split
      · next hk =>
        have hs : s.hstate = .chan d (⟨j, hj⟩ : ChIdx).val := hs
        unfold examineChannel
        dsimp only
        split
        · split
          · exact terminalPeriod_move hs hd hk
          · exact ordinaryPeriod_move hs hd hk
        · exact .pass hs hd hk
      · exact .leave hs
    · exact .leave hs

/-- Every transition of the handler is a row of R113. -/
theorem handlerMicro_move (s : State) : HandlerMove s (handlerMicro s).hstate (handlerMicro s).devices := by
  unfold handlerMicro
  split
  · next hs => exact .wait (by rw [hs]; rfl)
  · next hs => exact scanDevice_move hs
  · next hs => exact scanChannel_move hs
  · next hs => exact .wait (by rw [hs]; rfl)

theorem HandlerWrite.valid_nCh {p : Platform} {dev dev' : Device} (h : HandlerWrite p dev dev') :
    dev'.valid = dev.valid ∧ dev'.nCh = dev.nCh := by
  cases h with
  | serve | count | rearm => exact ⟨rfl, rfl⟩
  | expire => exact ⟨commitDevice_valid _ _ _, commitDevice_nCh _ _ _⟩

theorem HandlerMove.slots {s : State} {h : HState} {ds : List Device} (m : HandlerMove s h ds) :
    ds = s.devices ∨
      ∃ d dev dev', s.dev? d = some dev ∧ ds = s.devices.set d dev' ∧ HandlerWrite s.plat dev dev' := by
  cases m with
  | wait | finish | skip | leave | pass => exact .inl rfl
  | serve hs hd => exact .inr ⟨_, _, _, hd, rfl, .serve⟩
  | next hs hd hj hw | call hs hd hj hw => exact .inr ⟨_, _, _, hd, rfl, hw⟩

/-- A transition writes at most one slot. -/
theorem handlerMicro_slots (s : State) :
    (handlerMicro s).devices = s.devices ∨
      ∃ d dev dev', s.SlotWritten (handlerMicro s) d dev dev' ∧ HandlerWrite s.plat dev dev' := by
  obtain h | ⟨d, dev, dev', hd, hs, hw⟩ := (handlerMicro_move s).slots
  · exact .inl h
  · exact .inr ⟨d, dev, dev', ⟨hd, hs⟩, hw⟩

/-- From a position in range the handler moves to one in range. -/
theorem HandlerMove.inRange {s : State} {h : HState} {ds : List Device} (m : HandlerMove s h ds)
    (hr : s.hstate.InRange s) : h.InRange s := by
  cases m with
  | wait => exact hr
  | finish => trivial
  | skip hs hd => exact hd
  | serve hs hd hv => exact ⟨_, hd, hv, Nat.zero_le _⟩
  | leave hs =>
    rw [hs] at hr
    obtain ⟨dev, hd, -, -⟩ := hr
    exact State.dev?_lt hd
  | pass hs hd hj | next hs hd hj | call hs hd hj =>
    rw [hs] at hr
    obtain ⟨dev, hd', hv, -⟩ := hr
    obtain rfl := Option.some.inj (hd'.symm.trans hd)
    exact ⟨dev, hd, hv, hj⟩

/-- The handler begins no invocation by itself. -/
theorem HandlerMove.not_idle {s : State} {h : HState} {ds : List Device} (m : HandlerMove s h ds)
    (hne : h ≠ .idle) : s.hstate ≠ .idle := by
  cases m with
  | wait => exact hne
  | finish => exact absurd rfl hne
  | skip hs | serve hs | leave hs | pass hs | next hs | call hs => rw [hs]; nofun

/-! ### Pins -/

/-- Every record of the slot has `pin` and `af` both sentinel or both assigned (spec/10_state.md R33(a)). -/
def Device.PinsConsistent (dev : Device) : Prop :=
  ∀ i : ChIdx, pinAfConsistent (dev.ch i).cfg.pin (dev.ch i).cfg.af = true

theorem Device.PinsConsistent.setCh {dev : Device} (h : dev.PinsConsistent) (k : ChIdx) {c : Channel}
    (hc : pinAfConsistent c.cfg.pin c.cfg.af = true) : (dev.setCh k c).PinsConsistent := by
  intro i
  rw [Device.ch_setCh]
  split
  · exact hc
  · exact h i

theorem Device.PinsConsistent.commit {dev : Device} (h : dev.PinsConsistent) (p : Platform) (u : Bool) :
    (commitDevice p u dev).1.PinsConsistent := by
  intro i
  obtain ⟨hp, ha⟩ := commitDevice_pin_af p u dev i
  rw [hp, ha]
  exact h i

/-- The disabled record has no pin: `NOPIN` and `NOAF` (spec/10_state.md R21). -/
theorem pinAfConsistent_of_sentinel {c : Channel} (h : c.chcfg = Config.sentinel) :
    pinAfConsistent c.cfg.pin c.cfg.af = true := by
  rw [Channel.cfg, h, ChCfg.ofWord_sentinel]
  decide

theorem Channel.cfg_configured (c : Channel) (pin : Byte) (af : AltFn) (inv : Bool)
    (n ccb cdata scb sdata : Word) :
    (c.configured pin af inv n ccb cdata scb sdata).cfg = { c.cfg with
      pin := pin, af := af, invert := inv, configure := c.cfg.configure || c.structural pin af inv } :=
  ChCfg.ofWord_word _

@[simp] theorem Channel.init_chcfg (c : Channel) : c.init.chcfg = Config.sentinel := rfl

theorem SlotWrite.pinsConsistent {p : Platform} {dev dev' : Device} {i : Instr} (h : SlotWrite p dev i dev')
    (hi : i.wellFormed = true) (hold : dev.valid = true → dev.PinsConsistent) (hv : dev'.valid = true) :
    dev'.PinsConsistent := by
  have hdev (hne : ∀ d w, i ≠ .init d w) : dev.PinsConsistent := hold ((h.identity hne).1 ▸ hv)
  cases h with
  | init =>
    intro k
    rw [Device.ch_init]
    exact pinAfConsistent_of_sentinel (Channel.init_chcfg _)
  | setFrequency =>
    refine Device.PinsConsistent.commit ?_ p true
    exact hdev nofun
  | configureChannel =>
    refine (hdev nofun).setCh _ ?_
    rw [Channel.cfg_configured]
    exact hi
  | enableDutyCycle =>
    refine ((hdev nofun).setCh _ ?_).commit _ _
    rw [Channel.enable, Channel.cfg_setCfg]
    exact hdev nofun _
  | disable => exact ((hdev nofun).setCh _ (pinAfConsistent_of_sentinel rfl)).commit _ _

theorem HandlerWrite.pinsConsistent {p : Platform} {dev dev' : Device} (h : HandlerWrite p dev dev')
    (hdev : dev.PinsConsistent) : dev'.PinsConsistent := by
  cases h with
  | serve => exact hdev
  | count | rearm => exact hdev.setCh _ (hdev _)
  | expire => exact (hdev.setCh _ (pinAfConsistent_of_sentinel rfl)).commit _ _

/-- Settles O60: a well-formed command and a handler transition keep the pins of the one slot they write consistent. -/
theorem pinsStayConsistent : Obligations.PinsStayConsistent := by
  constructor
  · intro i s t hi hp e
    obtain ⟨-, -, ⟨hdev, -⟩ | ⟨dev, dev', hs, hw, -⟩⟩ := exec_effect e
    · rwa [State.PinsConsistent, hdev]
    · exact hs.forall_valid hp (hw.pinsConsistent hi (hp dev (State.mem_of_dev? hs.old)))
  · intro s hp
    refine runSegment_induct (P := State.PinsConsistent) (fun s hp => ?_) hp
    obtain hdev | ⟨d, dev, dev', hs, hw⟩ := handlerMicro_slots s
    · rwa [State.PinsConsistent, hdev]
    · exact hs.forall_valid hp fun hv =>
        hw.pinsConsistent (hp dev (State.mem_of_dev? hs.old) (hw.valid_nCh.1 ▸ hv))

end Sys2Proof.Machine
end


section
/-! PROOFS. The invariants of spec/10_state.md, from a record to a slot to the block: what each write of a slot keeps,
and so every step. -/

namespace Sys2Proof.Machine

/-! ### The invariant of a record -/

section ChannelInv

variable {c : Channel}

/-- What holds of a record that a commit is about to settle: `Channel.Inv`, but the `update` flag may be set where the
record is enabled. -/
structure Channel.Ready (c : Channel) : Prop where
  legal : c.chcfg = Config.sentinel ∨ c.cfg.enabled = true ∨ c.cfg.configure = true
  updates : c.cfg.update = true → c.cfg.enabled = true
  counted : c.cycle ≤ c.cycleCount
  routed : c.chOutEn = true → c.cfg.enabled = true ∧ c.ocPwm = true ∧ c.ocPreload = true

theorem Channel.Inv.ready (h : c.Inv) : c.Ready :=
  ⟨h.legal, fun hu => absurd hu (by simp [h.settled]), h.counted, h.routed⟩

theorem Channel.cfg_of_sentinel (h : c.chcfg = Config.sentinel) :
    c.cfg.enabled = false ∧ c.cfg.update = false ∧ c.cfg.configure = false := by
  rw [Channel.cfg, h, ChCfg.ofWord_sentinel]
  exact ⟨rfl, rfl, rfl⟩

theorem Channel.chcfg_ne_sentinel (h : c.cfg.enabled = true ∨ c.cfg.configure = true) :
    c.chcfg ≠ Config.sentinel := by
  intro hs
  obtain ⟨he, -, hc⟩ := Channel.cfg_of_sentinel hs
  simp [he, hc] at h

/-- A disabled record with its output off. -/
theorem Channel.Inv.of_sentinel (hs : c.chcfg = Config.sentinel) (hc : c.cycle ≤ c.cycleCount)
    (ho : c.chOutEn = false) : c.Inv :=
  ⟨.inl hs, (Channel.cfg_of_sentinel hs).2.1, hc, fun h => absurd h (by simp [ho])⟩

theorem Channel.Inv.init (c : Channel) : c.init.Inv := .of_sentinel rfl (BitVec.le_refl 0) rfl

theorem Channel.Inv.clear (h : c.Inv) : c.clear.Inv := .of_sentinel rfl h.counted rfl

theorem Channel.Inv.latch (h : c.Inv) : c.latch.Inv := ⟨h.legal, h.settled, h.counted, h.routed⟩

theorem Channel.Inv.withCycle (h : c.Inv) {x : Word} (hx : x ≤ c.cycleCount) : (c.withCycle x).Inv :=
  ⟨h.legal, h.settled, hx, h.routed⟩

theorem countDown_le (x : Word) : countDown x ≤ x := by
  unfold countDown
  split <;> bv_omega

/-- ENABLE_DUTY_CYCLE's writes before its commit (spec/44_channel_commands.md R137). -/
theorem Channel.Inv.enable (h : c.Inv) (duty : Half) : (c.enable duty).Ready := by
  have hcfg : (c.enable duty).cfg = { c.cfg with duty := duty, enabled := true, update := true } := c.cfg_setCfg _
  refine ⟨.inr (.inl ?_), fun _ => ?_, h.counted, fun ho => ⟨?_, (h.routed ho).2⟩⟩ <;> rw [hcfg]

/-- A configured record is non-disabled: it is enabled, or its `configure` flag is set
(spec/44_channel_commands.md R134). -/
theorem Channel.configured_live (h : c.Inv) (pin : Byte) (af : AltFn) (inv : Bool) (n ccb cdata scb sdata : Word) :
    let r := c.configured pin af inv n ccb cdata scb sdata
    r.cfg.enabled = true ∨ r.cfg.configure = true := by
  dsimp only
  rw [Channel.cfg_configured]
  obtain hs | he | hc := h.legal
  · simp [Channel.structural, c.disabled_iff.mpr hs]
  · exact .inl he
  · simp [hc]

theorem Channel.Inv.configured (h : c.Inv) (pin : Byte) (af : AltFn) (inv : Bool) (n ccb cdata scb sdata : Word) :
    (c.configured pin af inv n ccb cdata scb sdata).Inv := by
  refine ⟨.inr (Channel.configured_live h ..), ?_, BitVec.le_refl n, fun ho => ⟨?_, (h.routed ho).2⟩⟩ <;>
    rw [Channel.cfg_configured]
  · exact h.settled
  · exact (h.routed ho).1

/-- The loop body settles a record (spec/41_commit_engine.md R91 to R93, R98). -/
theorem Channel.Ready.committed (h : c.Ready) (u : Bool) (r : Half) : (c.committed u r).Inv := by
  cases hsel : c.selected u with
  | false =>
    rw [Channel.committed_of_not u r c hsel]
    refine ⟨h.legal, ?_, h.counted, h.routed⟩
    by_contra hu
    have hu : c.cfg.update = true := by simpa using hu
    have he := h.updates hu
    simp [Channel.selected, Channel.enabled_not_disabled he, he, hu] at hsel
  | true =>
    have he : c.cfg.enabled = true := by
      simp only [Channel.selected, Bool.and_eq_true] at hsel
      exact hsel.1.2
    have he' : (c.committed u r).cfg.enabled = true := (Channel.committed_enabled u r c).trans he
    refine ⟨.inr (.inl he'), by rw [Channel.committed_cfg, if_pos hsel], by simpa using h.counted,
      fun ho => ⟨he', ?_⟩⟩
    unfold Channel.committed at ho ⊢
    rw [if_pos hsel] at ho ⊢
    split
    · exact ⟨rfl, rfl⟩
    · next hconf =>
      rw [if_neg hconf] at ho
      exact (h.routed ho).2

end ChannelInv

/-! ### The invariant of a slot -/

section DeviceInv

variable {dev : Device}

/-- What holds of a slot that a commit is about to settle. -/
structure Device.Ready (dev : Device) : Prop where
  channels : ∀ i : ChIdx, (dev.ch i).Ready
  absent : ∀ i : ChIdx, dev.nCh ≤ i.val → (dev.ch i).chcfg = Config.sentinel
  clock : dev.timerClock ≠ 0

theorem Device.Inv.ready (h : dev.Inv) : dev.Ready := ⟨fun i => (h.channels i).ready, h.absent, h.clock⟩

theorem Device.Ready.setCh (h : dev.Ready) {k : ChIdx} (hk : k.val < dev.nCh) {c : Channel} (hc : c.Ready) :
    (dev.setCh k c).Ready := by
  refine ⟨fun i => ?_, fun i hi => ?_, h.clock⟩ <;> rw [Device.ch_setCh]
  · split
    · exact hc
    · exact h.channels i
  · rw [if_neg (by rintro rfl; exact absurd hk (Nat.not_lt.mpr hi))]
    exact h.absent i hi

/-- Writing a channel keeps the invariant where it does not disable the record. -/
theorem Device.Inv.setCh (h : dev.Inv) {k : ChIdx} (hk : k.val < dev.nCh) {c : Channel} (hc : c.Inv)
    (hlive : (dev.ch k).chcfg ≠ Config.sentinel → c.chcfg ≠ Config.sentinel) : (dev.setCh k c).Inv := by
  refine ⟨fun i => ?_, (h.ready.setCh hk hc.ready).absent, fun hcnt => ?_, h.clock⟩
  · rw [Device.ch_setCh]
    split
    · exact hc
    · exact h.channels i
  · obtain ⟨i, hi, hne⟩ := h.counter hcnt
    refine ⟨i, hi, ?_⟩
    rw [Device.ch_setCh]
    split
    · next hik => exact hlive (hik ▸ hne)
    · exact hne

/-- COMMIT leaves the counter running only with a record left (spec/41_commit_engine.md R95, spec/10_state.md R33(d)). -/
theorem commitDevice_counter (p : Platform) (u : Bool) (dev : Device)
    (h : (commitDevice p u dev).1.counterEn = true) :
    ∃ i : ChIdx, i.val < dev.nCh ∧ (dev.ch i).chcfg ≠ Config.sentinel := by
  have htotal : enabledTotal p.countRule dev ≠ 0 := by
    intro h0
    obtain ⟨-, hc⟩ | ⟨hne, -⟩ | ⟨hne, -⟩ := commitDevice_cases p u dev
    · simp [hc] at h
    · exact hne h0
    · exact hne h0
  simp only [ne_eq, enabledTotal_eq_zero, not_forall] at htotal
  obtain ⟨i, hi, hcnt⟩ := htotal
  have hd := not_disabled_of_counted (Bool.eq_true_of_not_eq_false hcnt)
  exact ⟨i, hi, fun hs => by simp [(dev.ch i).disabled_iff.mpr hs] at hd⟩

/-- COMMIT settles a slot (spec/41_commit_engine.md R91 to R98). -/
theorem Device.Ready.commit (h : dev.Ready) (p : Platform) (u : Bool) : (commitDevice p u dev).1.Inv := by
  refine ⟨fun i => ?_, fun i hi => ?_, fun hcnt => ?_, ?_⟩
  · have hloop : ((commitLoop u dev).1.ch i).Inv := by
      rw [commitLoop_ch]
      split
      · exact (h.channels i).committed u dev.reload
      · next hi =>
        have hr := h.channels i
        have hs := h.absent i (Nat.not_lt.mp hi)
        exact ⟨hr.legal, (Channel.cfg_of_sentinel hs).2.1, hr.counted, hr.routed⟩
    rw [commitDevice_ch]
    exact ⟨hloop.legal, hloop.settled, hloop.counted, hloop.routed⟩
  · rw [commitDevice_sentinel_iff]
    exact h.absent i (commitDevice_nCh p u dev ▸ hi)
  · obtain ⟨i, hi, hne⟩ := commitDevice_counter p u dev hcnt
    exact ⟨i, hi.trans_eq (commitDevice_nCh p u dev).symm, mt (commitDevice_sentinel_iff p u dev i).mp hne⟩
  · rw [commitDevice_timerClock]
    exact h.clock

theorem Device.Inv.init (dev : Device) (handle : Word) (m : TimerModel) : (dev.init handle m).Inv := by
  refine ⟨fun i => ?_, fun i _ => ?_, nofun, ?_⟩
  · rw [Device.ch_init]
    exact .init _
  · rw [Device.ch_init]
    rfl
  · have := m.clock_pos
    rw [Device.init_timerClock]
    bv_omega

theorem Device.Inv.periodElapsed (h : dev.Inv) : dev.periodElapsed.Inv := by
  refine ⟨fun i => ?_, fun i hi => ?_, fun hcnt => ?_, h.clock⟩
  · rw [Device.ch_periodElapsed]
    exact (h.channels i).latch
  · rw [Device.ch_periodElapsed]
    exact h.absent i hi
  · obtain ⟨i, hi, hne⟩ := h.counter hcnt
    exact ⟨i, hi, by rwa [Device.ch_periodElapsed]⟩

/-- A command keeps the invariant of a valid slot, and gives it to one that INIT makes valid. -/
theorem SlotWrite.inv {p : Platform} {dev' : Device} {i : Instr} (h : SlotWrite p dev i dev')
    (hold : dev.valid = true → dev.Inv) (hv : dev'.valid = true) : dev'.Inv := by
  have hdev (hne : ∀ d w, i ≠ .init d w) : dev.Inv := hold ((h.identity hne).1 ▸ hv)
  cases h with
  | init => exact .init _ _ _
  | setFrequency =>
    have hd := (hdev nofun).ready
    refine Device.Ready.commit ?_ p true
    exact ⟨hd.channels, hd.absent, hd.clock⟩
  | configureChannel hk =>
    have hd := hdev nofun
    exact hd.setCh hk ((hd.channels _).configured ..)
      fun _ => Channel.chcfg_ne_sentinel (Channel.configured_live (hd.channels _) ..)
  | enableDutyCycle hk =>
    have hd := hdev nofun
    exact (hd.ready.setCh hk ((hd.channels _).enable _)).commit p false
  | disable hk =>
    have hd := hdev nofun
    exact (hd.ready.setCh hk (hd.channels _).clear.ready).commit p false

/-- A transition of the handler keeps the invariant of the slot it writes. -/
theorem HandlerWrite.inv {p : Platform} {dev' : Device} (h : HandlerWrite p dev dev') (hd : dev.Inv) : dev'.Inv := by
  cases h with
  | serve => exact ⟨hd.channels, hd.absent, hd.counter, hd.clock⟩
  | count hk =>
    exact hd.setCh hk ((hd.channels _).withCycle (BitVec.le_trans (countDown_le _) (hd.channels _).counted)) id
  | rearm hk => exact hd.setCh hk ((hd.channels _).withCycle (BitVec.le_refl _)) id
  | expire hk =>
    exact (hd.ready.setCh hk ((hd.channels _).withCycle (BitVec.le_refl _)).clear.ready).commit p false

end DeviceInv

/-! ### The invariant of the block -/

section StateInv

variable {s t : State}

theorem State.Inv.same_slots (h : s.Inv) (hd : t.devices = s.devices) (hi : t.irqEn = s.irqEn)
    (hpos : t.hstate.InRange s) (hrun : t.hstate ≠ .idle → t.irqEn = true) : t.Inv := by
  refine ⟨hd ▸ h.slots, hd ▸ h.devices, ?_, hrun, hpos.mono (congrArg List.length hd) fun d x hx hv => ?_⟩
  · rw [hd, hi]
    exact h.vector
  · exact ⟨x, (congrArg (·[d]?) hd).trans hx, hv, rfl⟩

/-- The invariant after a write of one slot. -/
theorem State.Inv.write_slot (h : s.Inv) {d : Nat} {dev dev' : Device} (hs : s.SlotWritten t d dev dev')
    (hkeep : dev.valid = true → dev'.valid = true ∧ dev'.nCh = dev.nCh)
    (hnew : dev'.valid = true → dev'.Inv ∧ t.irqEn = true) (hirq : s.irqEn = true → t.irqEn = true)
    (hpos : t.hstate.InRange s) (hrun : t.hstate ≠ .idle → t.irqEn = true) : t.Inv := by
  refine ⟨?_, hs.forall_valid h.devices fun hv => (hnew hv).1, ?_, hrun, hs.inRange hkeep hpos⟩
  · rw [hs.devices, ne_eq, List.set_eq_nil_iff]
    exact h.slots
  · exact hs.forall_valid (P := fun _ => t.irqEn = true) (fun e he hv => hirq (h.vector e he hv))
      fun hv => (hnew hv).2

/-- Every command keeps the invariant, whatever its operands. -/
theorem State.Inv.exec (h : s.Inv) {i : Instr} (e : exec i s = .next t) : t.Inv := by
  have heff := exec_effect e
  have hpos : t.hstate.InRange s := heff.hstate_eq ▸ h.position
  have hrun (hne : t.hstate ≠ .idle) : t.irqEn = true := heff.irqEn_of_irqEn (h.handler (heff.hstate_eq ▸ hne))
  obtain ⟨hd, hi⟩ | ⟨dev, dev', hs, hw, hi⟩ := heff.slots
  · exact h.same_slots hd hi hpos hrun
  · have hold := State.mem_of_dev? hs.old
    refine h.write_slot hs hw.keeps_valid (fun hv => ⟨hw.inv (h.devices dev hold) hv, ?_⟩) heff.irqEn_of_irqEn hpos hrun
    obtain hon | hne := irqEnAfter_or s.irqEn i
    · exact hi.trans hon
    · exact heff.irqEn_of_irqEn (h.vector dev hold ((hw.identity hne).1 ▸ hv))

theorem State.Inv.handlerMicro (h : s.Inv) : (handlerMicro s).Inv := by
  have hm := handlerMicro_move s
  have hi : (Machine.handlerMicro s).irqEn = s.irqEn := by rw [(handlerMicro_writes s).1]
  have hpos := hm.inRange h.position
  have hrun (hne : (Machine.handlerMicro s).hstate ≠ .idle) : (Machine.handlerMicro s).irqEn = true :=
    hi.trans (h.handler (hm.not_idle hne))
  obtain hd | ⟨d, dev, dev', hs, hw⟩ := handlerMicro_slots s
  · exact h.same_slots hd hi hpos hrun
  · obtain ⟨hv, hn⟩ := hw.valid_nCh
    have hold := State.mem_of_dev? hs.old
    refine h.write_slot hs (fun hdv => ⟨hv.trans hdv, hn⟩) (fun hdv => ?_) (fun h => hi.trans h) hpos hrun
    have hdv : dev.valid = true := hv ▸ hdv
    exact ⟨hw.inv (h.devices dev hold hdv), hi.trans (h.vector dev hold hdv)⟩

theorem State.Inv.runSegment (h : s.Inv) : (runSegment s).Inv :=
  runSegment_induct (P := State.Inv) (fun _ hs => hs.handlerMicro) h

theorem State.Inv.portAccess (h : s.Inv) {a : Access} (e : portAccess a s = .next t) : t.Inv := by
  obtain ⟨addr, v, rfl⟩ | ⟨a0, a1, a2, a3, a4, a5, rfl⟩ | ⟨v, rfl⟩ | ⟨v, i, -, e⟩ := portAccess_next e
  · exact h.same_slots rfl rfl h.position h.handler
  · exact h.same_slots rfl rfl h.position h.handler
  · exact h.same_slots rfl rfl h.position h.handler
  · have hcmd : State.Inv { s with cmd := v } := h.same_slots rfl rfl h.position h.handler
    exact hcmd.exec e

theorem State.Inv.periodElapsed (h : s.Inv) {d : Nat} {dev : Device} (hd : s.dev? d = some dev)
    (hv : dev.valid = true) : (s.setDev d dev.periodElapsed).Inv := by
  have hold := State.mem_of_dev? hd
  exact h.write_slot ⟨hd, rfl⟩ (fun _ => ⟨hv, rfl⟩)
    (fun _ => ⟨(h.devices dev hold hv).periodElapsed, h.vector dev hold hv⟩) id h.position h.handler

end StateInv

/-- Settles O57: each kind of step keeps the invariant. -/
theorem everyStepKeepsTheInvariant : Obligations.EveryStepKeepsTheInvariant := by
  intro s t h e
  have hrest (rest : List Input) : State.Inv { s with inputs := rest } := h.same_slots rfl rfl h.position h.handler
  obtain ⟨-, rfl⟩ | ⟨-, -, rfl⟩ | ⟨who, a, rest, -, -, -, e⟩ | ⟨d, rest, dev, -, -, hd, hv, -, rfl⟩ |
    ⟨rest, -, -, hi, rfl⟩ | ⟨d, j, k, rest, -, hcb, rfl⟩ := step_next e
  · exact h.runSegment
  · exact h
  · exact (hrest rest).portAccess e
  · exact (hrest rest).periodElapsed hd hv
  · exact State.Inv.runSegment (h.same_slots rfl rfl (Nat.zero_le _) fun _ => hi)
  · obtain ⟨dev, hd, hv, hj⟩ : (HState.cb d j k).InRange s := hcb ▸ h.position
    exact State.Inv.runSegment (h.same_slots rfl rfl ⟨dev, hd, hv, hj⟩ fun _ => h.handler (by simp [hcb]))

/-- Settles O58: with no slot valid and no invocation, the invariant asks nothing. -/
theorem powerOnMeetsTheInvariant : Obligations.PowerOnMeetsTheInvariant := by
  constructor
  · intro s h
    have hnone {dev : Device} (hm : dev ∈ s.devices) (hv : dev.valid = true) : False := by
      simp [h.invalid dev hm] at hv
    refine ⟨h.slots, fun _ hm hv => (hnone hm hv).elim, fun _ hm hv => (hnone hm hv).elim,
      fun hne => absurd h.idle hne, ?_⟩
    rw [h.idle]
    trivial
  · refine ⟨List.cons_ne_nil _ _, rfl, rfl, fun dev hm => ?_⟩
    rw [List.eq_of_mem_replicate hm]
    rfl

end Sys2Proof.Machine
end

section
/-! PROOFS. The command port and the preload of the timer (spec/20_memory.md): the byte form of a command, which accesses
are taken, the period-elapsed event, and that a command latches a slot only by a cold start. -/

namespace Sys2Proof

/-! ### The byte form -/

/-- The decoder reads back what the encoder wrote (spec/30_encoding.md R61 to R64). -/
theorem decode_encode (i : Instr) : decode (encode i) = .ok i := by
  cases i with
  | init | setFrequency | getClockFrequency | getPeriodTicks | getResolutionBits =>
    simp [encode, decode, decodeNoChannel]
  | configureChannel => simp [encode, decode, decodeConfigure]
  | enableDutyCycle => simp [encode, decode, decodeEnable]
  | disable => simp [encode, decode]

/-- Bytes that start with those of a command decode as its words do (spec/20_memory.md R42). -/
theorem decodeBytes_bytes (c : Command) (rest : List Byte) :
    decodeBytes (c.bytes ++ rest) = (decode c).map (·, rest) := by
  rw [decodeBytes, readCommand_bytes]

/-- Settles O3: the bytes are read back as the words written, and those decode to the command. -/
theorem commandBytesRoundTrip : Obligations.CommandBytesRoundTrip := by
  intro i rest
  rw [decodeBytes_bytes, decode_encode]
  rfl

end Sys2Proof

namespace Sys2Proof.Machine

/-! ### Port accesses -/

/-- The registers stand at the aligned offsets up to 0x20 (spec/20_memory.md R41). -/
theorem portReg_eq_none {addr : Nat} : portReg addr = none ↔ ¬(addr % 4 = 0 ∧ addr ≤ 0x20) := by
  unfold portReg
  split
  case h_10 => simp only [imp_false, true_iff] at *; omega
  all_goals decide

/-- No register is reached exactly where the access is not an aligned 32-bit one of an offset up to 0x20
(spec/20_memory.md R43). -/
theorem accessedReg_eq_none {addr n : Nat} :
    accessedReg addr n = none ↔ ¬(n = 4 ∧ addr % 4 = 0 ∧ addr ≤ 0x20) := by
  unfold accessedReg
  split
  · next hn => simp [hn, portReg_eq_none]
  · next hn => simp [hn]

section PortAccess

variable {addr n : Nat}

theorem portAccess_read {r : PortReg} (h : accessedReg addr n = some r) (s : State) :
    portAccess (.read addr n) s = .next (s.emit (.readData addr (s.portValue r))) := by
  simp only [portAccess, h]

theorem portAccess_read_refused (h : accessedReg addr n = none) (s : State) :
    portAccess (.read addr n) s = .refused .badPortAccess := by
  simp only [portAccess, h]

theorem portAccess_write_refused (h : accessedReg addr n = none) (v : Word) (s : State) :
    portAccess (.write addr n v) s = .refused .badPortAccess := by
  simp only [portAccess, h]

end PortAccess

/-- Settles O9: an access is taken where it reaches a register; each of the nine is written as its case of the port's
store says. -/
theorem portAccessesMoveWholeWords : Obligations.PortAccessesMoveWholeWords := by
  intro s addr n v
  refine ⟨fun htaken => ?_, fun hrefused => ?_, rfl, rfl, rfl, rfl, rfl, rfl, rfl, rfl, rfl, rfl, rfl, rfl⟩
  · obtain ⟨r, hr⟩ := Option.ne_none_iff_exists'.mp (mt accessedReg_eq_none.mp (not_not_intro htaken))
    exact ⟨r, hr, portAccess_read hr s⟩
  · have hnone := accessedReg_eq_none.mpr hrefused
    exact ⟨portAccess_read_refused hnone s, portAccess_write_refused hnone v s⟩

/-! ### The period-elapsed event -/

/-- A block whose handler waits takes the next input (spec/20_memory.md R51). -/
theorem step_of_input {s : State} {e : Input} {rest : List Input} (hw : s.hstate.working = false)
    (hi : s.inputs = e :: rest) : step s = takeInput e { s with inputs := rest } := by
  simp [step, atomicStep, hw, hi]

section PeriodEvent

variable {s : State} {d : Nat}

theorem periodEvent_of_running {dev : Device} (hd : s.dev? d = some dev) (hr : dev.running = true) :
    periodEvent d s = .next (s.setDev d dev.periodElapsed) := by
  simp [periodEvent, hd, hr]

theorem periodEvent_refused (h : ∀ dev, s.dev? d = some dev → dev.running = false) :
    periodEvent d s = .refused .eventImpossible := by
  cases hd : s.dev? d with
  | none => simp [periodEvent, hd]
  | some dev => simp [periodEvent, hd, h dev hd]

end PeriodEvent

/-- Settles O43: the step is the event, which writes the slot where its counter runs and is refused elsewhere. -/
theorem periodElapsedLatchesAndPends : Obligations.PeriodElapsedLatchesAndPends := by
  intro s d rest hw hi
  have hstep : step s = periodEvent d { s with inputs := rest } := step_of_input hw hi
  rw [hstep]
  constructor
  · intro dev hd hv hc
    have hr : dev.running = true := by simp [Device.running, hv, hc]
    exact ⟨_, dev.periodElapsed, periodEvent_of_running hd hr, rfl, State.dev?_setDev_same hd _,
      fun e he => State.dev?_setDev_ne _ he _, rfl, dev.ch_periodElapsed⟩
  · intro h
    refine periodEvent_refused fun dev hd => ?_
    rw [Device.running, Bool.and_eq_false_iff]
    exact h dev hd

/-! ### The active copies of a slot -/

/-- The active copies of the two slots are the same (spec/20_memory.md R46). -/
structure Device.SameActive (dev dev' : Device) : Prop where
  prescale : dev'.prescaleAct = dev.prescaleAct
  reload : dev'.reloadAct = dev.reloadAct
  compare : ∀ j : ChIdx, (dev'.ch j).compareAct = (dev.ch j).compareAct

/-- The counter runs and every active copy of the slot equals its staged one, as after a forced update event
(spec/20_memory.md R47, spec/41_commit_engine.md R95). -/
structure Device.Restarted (dev : Device) : Prop where
  running : dev.counterEn = true
  prescale : dev.prescaleAct = dev.prescale
  reload : dev.reloadAct = dev.reload
  compare : ∀ j : ChIdx, (dev.ch j).compareAct = (dev.ch j).compare

theorem Device.SameActive.refl (dev : Device) : dev.SameActive dev := ⟨rfl, rfl, fun _ => rfl⟩

theorem Device.SameActive.trans {a b c : Device} (h : a.SameActive b) (k : b.SameActive c) : a.SameActive c :=
  ⟨k.prescale.trans h.prescale, k.reload.trans h.reload, fun j => (k.compare j).trans (h.compare j)⟩

theorem Device.SameActive.setCh (dev : Device) {k : ChIdx} {c : Channel}
    (hc : c.compareAct = (dev.ch k).compareAct) : dev.SameActive (dev.setCh k c) := by
  refine ⟨rfl, rfl, fun j => ?_⟩
  rw [Device.ch_setCh]
  split
  · next hj => rw [hc, hj]
  · rfl

theorem Device.SameActive.init (dev : Device) (handle : Word) (m : TimerModel) :
    dev.SameActive (dev.init handle m) := by
  refine ⟨rfl, rfl, fun j => ?_⟩
  rw [Device.ch_init]
  rfl

theorem Device.restarted_restart (f : Bool) (dev : Device) : (dev.restart f).Restarted := by
  refine ⟨rfl, rfl, rfl, fun j => ?_⟩
  rw [Device.ch_restart]
  rfl

/-- The commit loop writes staged copies only (spec/41_commit_engine.md R91 to R93). -/
theorem commitLoop_sameActive (u : Bool) (dev : Device) : dev.SameActive (commitLoop u dev).1 := by
  refine ⟨?_, ?_, fun j => ?_⟩
  · rw [commitLoop_frame]
  · rw [commitLoop_frame]
  · rw [commitLoop_ch]
    split
    · exact Channel.committed_compareAct _ _ _
    · rfl

/-- COMMIT latches by a cold start only (spec/41_commit_engine.md R95). -/
theorem commitDevice_active (p : Platform) (u : Bool) (dev : Device) :
    dev.SameActive (commitDevice p u dev).1 ∨
      (commitDevice p u dev).2 = true ∧ (commitDevice p u dev).1.Restarted := by
  have hloop := commitLoop_sameActive u dev
  obtain ⟨-, h⟩ | ⟨-, -, h⟩ | ⟨-, -, h⟩ := commitDevice_cases p u dev <;> rw [h]
  · exact .inl ⟨hloop.prescale, hloop.reload, hloop.compare⟩
  · exact .inr ⟨rfl, Device.restarted_restart _ _⟩
  · exact .inl hloop

/-! ### A command latches a slot only by a cold start -/

/-- From `s` to `t` the active copies of each slot wait, or the slot was restarted and its `CounterReset` is among the new
port events (spec/20_memory.md R50, R52). -/
def State.LatchesOnlyByRestart (s t : State) : Prop :=
  ∀ d dev dev', s.dev? d = some dev → t.dev? d = some dev' →
    dev.SameActive dev' ∨ .counterReset d ∈ t.outputs.drop s.outputs.length ∧ dev'.Restarted

section LatchesOnlyByRestart

variable {s t : State}

theorem State.LatchesOnlyByRestart.of_devices_eq (h : t.devices = s.devices) :
    s.LatchesOnlyByRestart t := by
  intro d dev dev' hd hd'
  rw [State.dev?, h] at hd'
  obtain rfl : dev = dev' := Option.some.inj (hd.symm.trans hd')
  exact .inl (.refl dev)

/-- A write of one slot concerns the active copies of that slot alone. -/
theorem State.SlotWritten.latchesOnlyByRestart {n : Nat} {dev dev' : Device} (hs : s.SlotWritten t n dev dev')
    (h : dev.SameActive dev' ∨ .counterReset n ∈ t.outputs.drop s.outputs.length ∧ dev'.Restarted) :
    s.LatchesOnlyByRestart t := by
  intro d x x' hx hx'
  by_cases hdn : d = n
  · subst d
    obtain rfl : dev = x := Option.some.inj (hs.old.symm.trans hx)
    obtain rfl : dev' = x' := Option.some.inj (hs.dev?_same.symm.trans hx')
    exact h
  · rw [hs.dev?_ne hdn] at hx'
    obtain rfl : x = x' := Option.some.inj (hx.symm.trans hx')
    exact .inl (.refl x)

/-- COMMIT on a slot just written, its active copies left alone; port events of the pin-mux may come before
(spec/41_commit_engine.md R95). -/
theorem commit_latchesOnlyByRestart {m : State} {n : Nat} {dev dev₁ : Device} (u : Bool) (hd : s.dev? n = some dev)
    (hm : s.SameBlock m) (ho : s.outputs <+: m.outputs) (h₁ : dev.SameActive dev₁) {code : Word} :
    s.LatchesOnlyByRestart { commit n u (m.setDev n dev₁) with result := code } := by
  rw [commit_setDev u ((hm.dev?_eq n).trans hd), hm.devices_eq, hm.plat_eq]
  refine State.SlotWritten.latchesOnlyByRestart ⟨hd, rfl⟩ ?_
  obtain hkept | ⟨hcold, hre⟩ := commitDevice_active s.plat u dev₁
  · exact .inl (h₁.trans hkept)
  · refine .inr ⟨?_, hre⟩
    rw [hcold, if_pos rfl, List.drop_append_of_le_length ho.length_le]
    exact List.mem_append_right _ (List.mem_singleton_self _)

/-- The command runs COMMIT where it writes its slot (spec/40_divisor_solver.md R84, spec/44_channel_commands.md R137,
R140). -/
def commits : Instr → Bool
  | .setFrequency _ _ | .enableDutyCycle _ _ _ | .disable _ _ => true
  | _ => false

/-- INIT and CONFIGURE_CHANNEL write no active copy (spec/44_channel_commands.md R131, R134). -/
theorem SlotWrite.sameActive {p : Platform} {dev dev' : Device} {i : Instr} (h : SlotWrite p dev i dev')
    (hi : commits i = false) : dev.SameActive dev' := by
  cases h with
  | init => exact .init ..
  | configureChannel => exact .setCh _ rfl
  | setFrequency | enableDutyCycle | disable => nomatch hi

/-- A command without a commit latches no slot: what it writes is no active copy. -/
theorem exec_latchesOnlyByRestart_of_not_commits {i : Instr} (hi : commits i = false) (e : exec i s = .next t) :
    s.LatchesOnlyByRestart t := by
  obtain ⟨-, -, ⟨hdev, -⟩ | ⟨dev, dev', hs, hw, -⟩⟩ := exec_effect e
  · exact .of_devices_eq hdev
  · exact hs.latchesOnlyByRestart (.inl (hw.sameActive hi))

/-- No command latches a slot but by a restart: one that commits has just written the staged copies of that slot. -/
theorem exec_latchesOnlyByRestart {i : Instr} (e : exec i s = .next t) : s.LatchesOnlyByRestart t := by
  cases i with
  | init | configureChannel | getClockFrequency | getPeriodTicks | getResolutionBits =>
    exact exec_latchesOnlyByRestart_of_not_commits rfl e
  | setFrequency =>
    obtain rfl | ⟨dev, hd, -, ⟨-, rfl⟩ | ⟨r, -, rfl⟩⟩ := execSetFrequency_next e
    · exact .of_devices_eq rfl
    · exact .of_devices_eq rfl
    · refine commit_latchesOnlyByRestart true hd (.refl s) (List.prefix_refl _) ?_
      exact ⟨rfl, rfl, fun _ => rfl⟩
  | enableDutyCycle =>
    obtain rfl | ⟨dev, hd, -, rfl | ⟨k, -, -, rfl⟩⟩ := execEnableDutyCycle_next e
    · exact .of_devices_eq rfl
    · exact .of_devices_eq rfl
    · refine commit_latchesOnlyByRestart false hd (.refl s) (List.prefix_refl _) ?_
      exact .setCh dev rfl
  | disable =>
    obtain rfl | ⟨dev, hd, -, rfl | ⟨k, -, -, rfl⟩⟩ := execDisable_next e
    · exact .of_devices_eq rfl
    · exact .of_devices_eq rfl
    · obtain ⟨hsame, hprefix⟩ := unassignPin_spec (dev.ch k).cfg.pin s
      rw [disableChannel_eq k hd]
      refine commit_latchesOnlyByRestart false hd hsame hprefix ?_
      exact .setCh dev rfl

end LatchesOnlyByRestart

/-- Settles O44: only a commit latches, and it does so by a cold start of the slot it has just written. -/
theorem stagedValuesWaitForALatch : Obligations.StagedValuesWaitForALatch := by
  intro i s t d dev dev' e hd hd'
  obtain hsame | ⟨hreset, hre⟩ := exec_latchesOnlyByRestart e d dev dev' hd hd'
  · exact .inl ⟨hsame.prescale, hsame.reload, hsame.compare⟩
  · exact .inr ⟨hreset, hre.running, hre.prescale, hre.reload, hre.compare⟩

end Sys2Proof.Machine
end

section
/-! PROOFS. The encoding (spec/30_encoding.md): decode and encode are inverse on the words a format lists, the opcode map,
the illegal commands of R66 as arithmetic, and how an issued command comes to run. -/

namespace Sys2Proof

/-! ### Decode and encode -/

/-- Settles O1: each operand is read back from the field it was placed in. -/
theorem decodeEncodeRoundTrip : Obligations.DecodeEncodeRoundTrip := decode_encode

/-- Settles O6: each word is the encoding of the command it stands for. -/
theorem sampleWordsDecode : Obligations.SampleWordsDecode :=
  ⟨decode_encode (.init 1 0x40000800), decode_encode (.setFrequency 0 1000),
    decode_encode (.configureChannel 0 1 0x1A 1 true 3 0x100 0xA 0 0), decode_encode (.enableDutyCycle 0 1 16384),
    decode_encode (.disable 0 2), decode_encode (.getResolutionBits 2)⟩

/-- What decodes is encoded by the words its format lists (spec/30_encoding.md R61 to R63): the `CMD` word is made of its
fields, `ARG0` of the format's fields, and the must-be-zero fields are 0. -/
theorem encode_eq_listed {c : Command} {i : Instr} (h : decode c = .ok i) : encode i = c.listed i := by
  obtain ⟨hz, hrow⟩ := decode_cases h
  have hcmd : cmdWord c.op c.dev c.ch = c.cmd := (c.cmd_eq_cmdWord c.op hz rfl).symm
  obtain ⟨ho, hf, rfl⟩ | ⟨ho, hf, rfl⟩ | ⟨ho, hf, rfl⟩ | ⟨ho, hf, rfl⟩ | ⟨ho, rfl⟩ | ⟨ho, hf, rfl⟩ | ⟨ho, hf, rfl⟩ |
    ⟨ho, hf, rfl⟩ := hrow
  case inr.inr.inl => rw [ho] at hcmd; rw [encode, hcmd, c.configWord_fields hf]; rfl
  case inr.inr.inr.inl => rw [ho] at hcmd; rw [encode, hcmd, c.dutyWord_duty hf]; rfl
  case inr.inr.inr.inr.inl => rw [ho] at hcmd; rw [encode, hcmd]; rfl
  all_goals rw [ho, hf] at hcmd; rw [encode, hcmd]; rfl

/-- Settles O2: the words a command decodes from are the encoder's, on all its format lists. -/
theorem decodedWordsAreTheEncoding : Obligations.DecodedWordsAreTheEncoding := fun _ _ => encode_eq_listed

/-! ### The opcode map -/

theorem Command.listed_cmd (c : Command) (i : Instr) : (c.listed i).cmd = c.cmd := by cases i <;> rfl

theorem row_selects_encode (i : Instr) : i.row.selects (encode i).cmd = true := by
  cases i with
  | init => exact Laws.OpcodeRow.init ..
  | setFrequency => exact Laws.OpcodeRow.setFrequency ..
  | configureChannel => exact Laws.OpcodeRow.configureChannel ..
  | enableDutyCycle => exact Laws.OpcodeRow.enableDutyCycle ..
  | disable => exact Laws.OpcodeRow.disable ..
  | getClockFrequency => exact Laws.OpcodeRow.getClockFrequency ..
  | getPeriodTicks => exact Laws.OpcodeRow.getPeriodTicks ..
  | getResolutionBits => exact Laws.OpcodeRow.getResolutionBits ..

/-- What decodes selects its own row (spec/30_encoding.md R64): its `CMD` word is the encoder's. -/
theorem row_selects_of_decode {c : Command} {i : Instr} (h : decode c = .ok i) : i.row.selects c.cmd = true := by
  have hsel := row_selects_encode i
  rwa [encode_eq_listed h, c.listed_cmd] at hsel

/-- The operation byte of a row's pattern (spec/30_encoding.md R64). -/
def OpcodeRow.opcode (r : OpcodeRow) : Byte := r.pattern.extractLsb' 0 8

/-- A byte of the `CMD` word that the mask keeps whole is that of the pattern. -/
theorem OpcodeRow.byte_of_selects {r : OpcodeRow} {w : Word} {k : Nat} (h : r.selects w = true)
    (hm : r.mask.extractLsb' k 8 = BitVec.allOnes 8) : w.extractLsb' k 8 = r.pattern.extractLsb' k 8 := by
  rw [← beq_iff_eq.mp h, BitVec.extractLsb'_and, hm, BitVec.and_allOnes]

/-- Every row fixes the top byte at 0 and the operation byte at one of the eight opcodes; a row of a format without a
channel fixes the channel byte at 0 (spec/30_encoding.md R64). -/
theorem opcodeTable_bytes : ∀ r ∈ opcodeTable,
    r.mask.extractLsb' 24 8 = BitVec.allOnes 8 ∧ r.pattern.extractLsb' 24 8 = (0 : Byte) ∧
    r.mask.extractLsb' 0 8 = BitVec.allOnes 8 ∧ r.opcode ≠ 0 ∧ r.opcode < 9 ∧
    (r.mask.extractLsb' 16 8 = BitVec.allOnes 8 ∧ r.pattern.extractLsb' 16 8 = (0 : Byte) ∨
      r.opcode = 3 ∨ r.opcode = 4 ∨ r.opcode = 5) := by
  decide

/-- Each opcode stands in one row. -/
theorem opcode_nodup : (opcodeTable.map OpcodeRow.opcode).Nodup := by decide

/-- What a `CMD` word that selects a row of the map looks like (spec/30_encoding.md R61, R64). -/
theorem Command.fields_of_selects {c : Command} {r : OpcodeRow} (hr : r ∈ opcodeTable) (h : r.selects c.cmd = true) :
    c.zero = 0 ∧ c.op = r.opcode ∧ c.op ≠ 0 ∧ c.op < 9 ∧ (c.ch = 0 ∨ c.op = 3 ∨ c.op = 4 ∨ c.op = 5) := by
  obtain ⟨hmz, hpz, hmo, hne, hlt, hch⟩ := opcodeTable_bytes r hr
  have hop : c.op = r.opcode := OpcodeRow.byte_of_selects h hmo
  rw [← hop] at hne hlt hch
  exact ⟨(OpcodeRow.byte_of_selects h hmz).trans hpz, hop, hne, hlt,
    hch.imp_left fun ⟨hmc, hpc⟩ => (OpcodeRow.byte_of_selects h hmc).trans hpc⟩

/-- The rows of the map are disjoint: a word selects at most one (spec/30_encoding.md R64). -/
theorem opcodeTable_disjoint {r₁ r₂ : OpcodeRow} (h₁ : r₁ ∈ opcodeTable) (h₂ : r₂ ∈ opcodeTable) {w : Word}
    (hs₁ : r₁.selects w = true) (hs₂ : r₂.selects w = true) : r₁ = r₂ := by
  have hop {r : OpcodeRow} (hr : r ∈ opcodeTable) (hs : r.selects w = true) : w.extractLsb' 0 8 = r.opcode :=
    (Command.fields_of_selects (c := ⟨w, 0, 0, 0, 0, 0, 0⟩) hr hs).2.1
  exact List.inj_on_of_nodup_map opcode_nodup h₁ h₂ ((hop h₁ hs₁).symm.trans (hop h₂ hs₂))

/-! ### Illegal words -/

/-- What each rejection of the decoder says of the words (spec/30_encoding.md R66); words are never `truncated`. -/
theorem decode_error_cases {c : Command} {e : DecodeError} (h : decode c = .error e) :
    (e = .topByte ∧ c.zero ≠ 0) ∨
    (e = .reservedOp ∧ (c.op = 0 ∨ 9 ≤ c.op)) ∨
    (e = .channelField ∧ c.ch ≠ 0 ∧ c.op ≠ 3 ∧ c.op ≠ 4 ∧ c.op ≠ 5) ∨
    (e = .dutyField ∧ c.op = 4 ∧ c.dutyZero ≠ 0) ∨
    (e = .configField ∧ c.op = 3 ∧ c.configZero ≠ 0) := by
  simp only [decode, decodeNoChannel, decodeConfigure, decodeEnable, ite_eq_iff, Except.error.injEq] at h
  cases e <;> simp only [reduceCtorEq, and_false, false_or, or_false, and_true, true_and, false_and] at h ⊢
  case topByte => exact h
  all_goals bv_omega

/-- The words are illegal (spec/30_encoding.md R66), as arithmetic on `CMD` and `ARG0`. -/
def Command.Illegal (c : Command) : Prop :=
  16777216 ≤ c.cmd.toNat ∨ c.cmd.toNat % 256 = 0 ∨ 9 ≤ c.cmd.toNat % 256 ∨
    (c.cmd.toNat % 256 ≠ 3 ∧ c.cmd.toNat % 256 ≠ 4 ∧ c.cmd.toNat % 256 ≠ 5 ∧ c.cmd.toNat / 65536 % 256 ≠ 0) ∨
    (c.cmd.toNat % 256 = 4 ∧ 65536 ≤ c.arg0.toNat) ∨ (c.cmd.toNat % 256 = 3 ∧ 8192 ≤ c.arg0.toNat)

/-- The same on the fields of the words (spec/30_encoding.md R61, R66). -/
theorem Command.illegal_iff_fields (c : Command) : c.Illegal ↔
    c.zero ≠ 0 ∨ c.op = 0 ∨ 9 ≤ c.op ∨ (c.op ≠ 3 ∧ c.op ≠ 4 ∧ c.op ≠ 5 ∧ c.ch ≠ 0) ∨
      (c.op = 4 ∧ c.dutyZero ≠ 0) ∨ (c.op = 3 ∧ c.configZero ≠ 0) := by
  obtain ⟨hz, hop, hch, hduty, hconfig⟩ := c.fields_toNat
  unfold Command.Illegal
  rw [← hop, ← hch]
  bv_omega

/-- Exactly the words of R66 are refused (spec/30_encoding.md R66). -/
theorem Command.illegal_iff_decode_error (c : Command) : c.Illegal ↔ ∃ e, decode c = .error e := by
  rw [c.illegal_iff_fields]
  cases hd : decode c with
  | ok i =>
    refine iff_of_false ?_ (by simp)
    obtain ⟨hz, ⟨ho, hf, -⟩ | ⟨ho, hf, -⟩ | ⟨ho, hf, -⟩ | ⟨ho, hf, -⟩ | ⟨ho, -⟩ | ⟨ho, hf, -⟩ | ⟨ho, hf, -⟩ |
      ⟨ho, hf, -⟩⟩ := decode_cases hd
    all_goals simp [*]
  | error e =>
    have hrejected := decode_error_cases hd
    exact iff_of_true (by tauto) ⟨e, rfl⟩

/-- Settles O4: two rows one word selects have one opcode; what decodes selects its row; and a word that selects a row
has no illegal field in its `CMD` word, so that of the decoder's rejections only those of `ARG0` are left. -/
theorem opcodeMapDecides : Obligations.OpcodeMapDecides := by
  refine ⟨fun _ h₁ _ h₂ _ => opcodeTable_disjoint h₁ h₂, fun _ _ => row_selects_of_decode, ?_⟩
  rintro c ⟨r, hr, hs⟩
  obtain ⟨hz, -, hne, hlt, hch⟩ := Command.fields_of_selects hr hs
  cases hd : decode c with
  | ok i => exact .inl ⟨i, rfl⟩
  | error e =>
    obtain ⟨-, hz'⟩ | ⟨-, ho⟩ | ⟨-, hch', h3, h4, h5⟩ | ⟨rfl, -⟩ | ⟨rfl, -⟩ := decode_error_cases hd
    · exact absurd hz hz'
    · exact absurd ho (by bv_omega)
    · exact absurd hch (by tauto)
    · exact .inr (.inl rfl)
    · exact .inr (.inr rfl)

end Sys2Proof

namespace Sys2Proof.Machine

/-! ### Issue -/

section RunCommand

variable {s : State}

/-- A legal command runs (spec/30_encoding.md R60). -/
theorem runCommand_of_ok {i : Instr} (h : decode s.command = .ok i) : runCommand s = exec i s := by
  simp only [runCommand, h]

/-- An illegal command writes `RESULT` alone (spec/30_encoding.md R66). -/
theorem runCommand_of_error {e : DecodeError} (h : decode s.command = .error e) :
    runCommand s = .next { s with result := ResultCode.badCommand.word } := by
  simp only [runCommand, h, finish_eq]

end RunCommand

/-- Settles O5: the conditions of R66 are those of the decoder's rejections. -/
theorem illegalCommandsWriteBadCommand : Obligations.IllegalCommandsWriteBadCommand := by
  intro s
  have hiff := s.command.illegal_iff_decode_error
  refine ⟨hiff, fun hill => ?_⟩
  obtain ⟨e, he⟩ := hiff.mp hill
  exact runCommand_of_error he

/-- Where an agent may issue the handler waits (spec/20_memory.md R51). -/
theorem HState.working_of_issuer {h : HState} {who : Agent} (hi : h.issuer = some who) : h.working = false := by
  cases h with
  | idle | cb => rfl
  | scan | chan => cases hi

/-- A write of `CMD` by the agent whose turn it is issues the command that then stands in the port
(spec/20_memory.md R44, R53). -/
theorem step_of_issue {s : State} {who : Agent} {v : Word} {rest : List Input} (hi : s.hstate.issuer = some who)
    (hin : s.inputs = .access who (.write 0x00 4 v) :: rest) :
    step s = runCommand { s with inputs := rest, cmd := v } := by
  rw [step_of_input (HState.working_of_issuer hi) hin, takeInput, if_pos hi]
  rfl

/-- Settles O7: the step is `runCommand` on the port as written, which is `exec` of a legal command. -/
theorem stepRunsTheIssuedCommand : Obligations.StepRunsTheIssuedCommand := by
  intro s who v rest hi hin
  rw [step_of_issue hi hin]
  exact ⟨fun _ => runCommand_of_ok, fun _ => runCommand_of_error⟩

/-- A position made issuable has the issuer named for it (log 16). -/
theorem HState.issuer_issuable (h : HState) : h.issuable.issuer = some h.issuerOr := by cases h <;> rfl

/-- A placed command is issued by the next step (log 16). -/
theorem step_withCommand (s : State) (c : Command) :
    step (s.withCommand c) = runCommand { s.withCommand c with inputs := s.inputs, cmd := c.cmd } :=
  step_of_issue s.hstate.issuer_issuable rfl

/-- An opcode-table word that decodes is decoded from the words of its command. -/
theorem decode_tableCommand {nbits w : Nat} {i : Instr} (h : decodeTableWord nbits w = some i) :
    decode (tableCommand nbits w) = .ok i := by
  unfold decodeTableWord decodeBytes at h
  unfold tableCommand
  cases hr : readCommand (tableBytes nbits w) with
  | none => simp [hr] at h
  | some p =>
    cases hd : decode p.1 with
    | error e => simp [hr, hd, Except.map] at h
    | ok j => simpa [hr, hd, Except.map] using h

/-- Settles O8: the placed word's command is issued, and it is the one that decodes. -/
theorem placedWordRunsNext : Obligations.PlacedWordRunsNext := by
  intro s nbits w i h
  rw [State.withFetchWord, step_withCommand]
  exact runCommand_of_ok (decode_tableCommand h)

end Sys2Proof.Machine
end

section
/-! PROOFS. The divisor solver (spec/40_divisor_solver.md R80 to R82): the arithmetic of the split, and when SOLVE errs. -/

namespace Sys2Proof.Machine

/-! ### The split of a divisor -/

section SplitDivisor

variable {div : Nat}

/-- The second factor fits `RELOAD + 1` (R81(b)). -/
theorem secondFactor_le (div : Nat) : div / (div / 65536 + 1) ≤ 65535 := by
  have : div / (div / 65536 + 1) < 65536 := Nat.div_lt_of_lt_mul (by omega)
  omega

/-- The factors come in order, so step 6 of SOLVE never swaps (R81(d)). -/
theorem firstFactor_le_secondFactor (h : div < 2 ^ 32) : div / 65536 ≤ div / (div / 65536 + 1) := by
  have hq : div / 65536 + 1 ≤ 65536 := by omega
  rw [Nat.le_div_iff_mul_le (Nat.succ_pos _)]
  calc div / 65536 * (div / 65536 + 1) ≤ div / 65536 * 65536 := Nat.mul_le_mul_left _ hq
    _ ≤ div := Nat.div_mul_le_self div 65536

theorem secondFactor_pos (h₀ : 0 < div) : 1 ≤ div / (div / 65536 + 1) :=
  Nat.div_pos (by omega) (Nat.succ_pos _)

/-- The first factor is below the second but for the divisors of R81(f): the two squares at the top of the range,
`65535 * 65535` and `65536 * 65536`, are too large. -/
theorem firstFactor_lt_secondFactor_iff (h₀ : 0 < div) (h : div < 2 ^ 32) :
    div / 65536 < div / (div / 65536 + 1) ↔ ¬(div = 4294836224 ∨ 4294901760 ≤ div) := by
  rw [← Nat.succ_le_iff, Nat.le_div_iff_mul_le (Nat.succ_pos _)]
  obtain ⟨q, m, hm, rfl⟩ : ∃ q m, m < 65536 ∧ div = 65536 * q + m :=
    ⟨div / 65536, div % 65536, Nat.mod_lt _ (by decide), (Nat.div_add_mod div 65536).symm⟩
  have hq : (65536 * q + m) / 65536 = q := by omega
  rw [hq]
  obtain hlow | rfl | rfl : q ≤ 65533 ∨ q = 65534 ∨ q = 65535 := by omega
  · have hsquare : q.succ * (q + 1) ≤ 65536 * q + m := by
      obtain rfl | hpos := Nat.eq_zero_or_pos q
      · omega
      · nlinarith
    exact iff_of_true hsquare (by omega)
  · omega
  · omega

end SplitDivisor

/-! ### SOLVE -/

/-- The pair of a divisor, as arithmetic (R80). -/
theorem splitDivisor_toNat {div : Nat} (h : div < 2 ^ 32) :
    (splitDivisor div).prescale.toNat = div / 65536 ∧
      (splitDivisor div).reload.toNat = div / (div / 65536 + 1) - 1 := by
  have hle := firstFactor_le_secondFactor h
  have hmax := secondFactor_le div
  simp only [splitDivisor, orderFactors, Nat.shiftRight_eq_div_pow, Nat.reducePow, if_neg (Nat.not_lt.mpr hle),
    BitVec.toNat_ofNat]
  exact ⟨Nat.mod_eq_of_lt (by omega), Nat.mod_eq_of_lt (by omega)⟩

section Solve

variable {clock freq : Word}

/-- SOLVE errs on a zero frequency and on a zero quotient, which is a frequency above the clock, and else splits the
quotient (R80). -/
theorem solve_eq (clock freq : Word) : solve clock freq =
    if freq = 0 ∨ clock < freq then none else some (splitDivisor (clock.toNat / freq.toNat)) := by
  unfold solve
  by_cases h0 : freq = 0
  · rw [if_pos h0, if_pos (.inl h0)]
  · have hquot : clock.toNat / freq.toNat = 0 ↔ freq = 0 ∨ clock < freq := by
      rw [Nat.div_eq_zero_iff, ← BitVec.lt_def, or_congr_left]
      exact BitVec.toNat_inj (y := 0)
    simp only [if_neg h0, hquot]

theorem solve_eq_none : solve clock freq = none ↔ freq = 0 ∨ clock < freq := by
  rw [solve_eq]
  split <;> simp_all

/-- Where SOLVE answers, the quotient is a divisor of 1 to `2^32 - 1` and the answer its split (R80). -/
theorem solve_eq_some {r : DivisorPair} (h : solve clock freq = some r) :
    0 < clock.toNat / freq.toNat ∧ clock.toNat / freq.toNat < 2 ^ 32 ∧
      r = splitDivisor (clock.toNat / freq.toNat) := by
  rw [solve_eq] at h
  split at h
  · cases h
  · next hok =>
    obtain ⟨h0, hle⟩ := not_or.mp hok
    have hpos : 0 < freq.toNat := Nat.pos_of_ne_zero fun hz => h0 (BitVec.eq_of_toNat_eq hz)
    exact ⟨Nat.div_pos (BitVec.not_lt.mp hle) hpos, (Nat.div_le_self _ _).trans_lt clock.isLt,
      (Option.some.inj h).symm⟩

/-- The pair SOLVE answers, as arithmetic (R80). -/
theorem solve_toNat {r : DivisorPair} (h : solve clock freq = some r) :
    let div := clock.toNat / freq.toNat
    r.prescale.toNat = div / 65536 ∧ r.reload.toNat = div / (div / 65536 + 1) - 1 := by
  obtain ⟨-, hlt, rfl⟩ := solve_eq_some h
  exact splitDivisor_toNat hlt

end Solve

/-- Settles O12: the errors are those of `solve_eq`, the pair is `solve_toNat`. -/
theorem solveSplitsTheDivisor : Obligations.SolveSplitsTheDivisor :=
  fun _ _ => ⟨solve_eq_none, fun _ => solve_toNat⟩

/-- Settles O13: the bounds of the two factors, carried to the pair. -/
theorem solverBounds : Obligations.SolverBounds := by
  intro clock freq r hr
  obtain ⟨hpos, hlt, -⟩ := solve_eq_some hr
  obtain ⟨hp, hq⟩ := solve_toNat hr
  have hquot : clock.toNat / freq.toNat ≤ clock.toNat := Nat.div_le_self _ _
  dsimp only at hp hq ⊢
  generalize clock.toNat / freq.toNat = div at *
  have hmax := secondFactor_le div
  have hmin := secondFactor_pos hpos
  have hle := firstFactor_le_secondFactor hlt
  have hlt_iff := firstFactor_lt_secondFactor_iff hpos hlt
  rw [hp, hq]
  refine ⟨by omega, hmin, hmax, hle, rfl, rfl, by omega, by omega, ?_, ?_, ?_, ?_⟩
  · rw [← hlt_iff]
    omega
  · rintro rfl
    decide
  · intro htop
    have hfirst : div / 65536 = 65535 := by omega
    rw [hfirst]
    omega
  · intro hclock
    have := hlt_iff.mpr (by omega)
    omega

/-- Settles O14: both divisions round down, and the product meets the clock exactly where neither leaves a remainder. -/
theorem solveNeverBelowRequest : Obligations.SolveNeverBelowRequest := by
  intro clock freq r hr
  obtain ⟨hpos, -, -⟩ := solve_eq_some hr
  obtain ⟨hp, hq⟩ := solve_toNat hr
  dsimp only at hp hq ⊢
  have hquot : clock.toNat / freq.toNat * freq.toNat ≤ clock.toNat := Nat.div_mul_le_self _ _
  have hfreq : 0 < freq.toNat := Nat.pos_of_ne_zero fun h => by simp [h] at hpos
  rw [hp, hq, Nat.sub_add_cancel (secondFactor_pos hpos)]
  have hexact : freq.toNat ∣ clock.toNat ↔ clock.toNat / freq.toNat * freq.toNat = clock.toNat :=
    Nat.dvd_iff_div_mul_eq _ _
  rw [hexact]
  generalize clock.toNat / freq.toNat = div at *
  have hproduct : (div / 65536 + 1) * (div / (div / 65536 + 1)) ≤ div := Nat.mul_div_le _ _
  rw [Nat.dvd_iff_div_mul_eq, Nat.mul_comm (div / (div / 65536 + 1))]
  generalize (div / 65536 + 1) * (div / (div / 65536 + 1)) = product at *
  have hscaled : product * freq.toNat ≤ div * freq.toNat := Nat.mul_le_mul_right _ hproduct
  refine ⟨hproduct, hscaled.trans hquot, fun h => ?_, fun ⟨hdiv, hprod⟩ => hprod ▸ hdiv⟩
  have hdiv : div * freq.toNat = clock.toNat := hquot.antisymm (h ▸ hscaled)
  exact ⟨hdiv, Nat.eq_of_mul_eq_mul_right hfreq (h.trans hdiv.symm)⟩

end Sys2Proof.Machine
end

section
/-! PROOFS. SET_FREQUENCY (spec/40_divisor_solver.md R84, R85): what a commit of every enabled channel makes of a record
and of the counter, then the command. -/

namespace Sys2Proof.Machine

/-! ### A commit of every enabled channel -/

/-- DUTY_TO_COMPARE loses no bit: the scaled value fits 16 bits (R90). -/
theorem dutyToCompare_toNat (duty reload : Half) :
    (dutyToCompare duty reload).toNat = duty.toNat * (reload.toNat + 1) / 65536 := by
  have hfit : duty.toNat * (reload.toNat + 1) / 65536 < 2 ^ 16 := by
    apply Nat.div_lt_of_lt_mul
    nlinarith [duty.isLt, reload.isLt]
  rw [dutyToCompare, BitVec.toNat_ofNat, Nat.shiftRight_eq_div_pow, Nat.mod_eq_of_lt hfit]

section Registers

variable (u : Bool) (r : Half) {c : Channel}

/-- With `update_all` the loop selects exactly the enabled records (R91). -/
theorem Channel.selected_true (c : Channel) : c.selected true = c.cfg.enabled := by
  cases he : c.cfg.enabled with
  | false => simp [Channel.selected, he]
  | true => simp [Channel.selected, he, Channel.enabled_not_disabled he]

/-- What the loop body writes of a selected channel: `COMPARE` and CHCFG, and the output's registers where `configure` was
set (R92, R93). -/
theorem Channel.committed_of_selected (h : c.selected u = true) : c.committed u r =
    { c with
      chcfg := (c.committed u r).chcfg
      compare := dutyToCompare c.cfg.duty r
      ocPwm := c.ocPwm || c.cfg.configure
      ocInvert := if c.cfg.configure then c.cfg.invert else c.ocInvert
      ocPreload := c.ocPreload || c.cfg.configure
      chOutEn := c.chOutEn || c.cfg.configure } := by
  unfold Channel.committed
  rw [if_pos h]
  cases hc : c.cfg.configure <;> simp [Channel.configureBranch, Channel.cheapPath]

end Registers

section CommitAll

variable (p : Platform) (u : Bool) {dev : Device} {i : ChIdx}

/-- A selected channel after COMMIT: what the loop body writes, and its active compare value (R91 to R93, R95). -/
theorem commitDevice_ch_of_selected (hi : i.val < dev.nCh) (h : (dev.ch i).selected u = true) :
    let c := dev.ch i
    let c' := (commitDevice p u dev).1.ch i
    c'.compare = dutyToCompare c.cfg.duty dev.reload ∧
    c'.cfg = { c.cfg with update := false, configure := false } ∧
    c' = { c with
      chcfg := c'.chcfg
      compare := c'.compare
      compareAct := c'.compareAct
      ocPwm := c.ocPwm || c.cfg.configure
      ocInvert := if c.cfg.configure then c.cfg.invert else c.ocInvert
      ocPreload := c.ocPreload || c.cfg.configure
      chOutEn := c.chOutEn || c.cfg.configure } := by
  have hcfg := Channel.committed_cfg u dev.reload (dev.ch i)
  have hregs := Channel.committed_of_selected u dev.reload h
  rw [if_pos h] at hcfg
  dsimp only
  rw [commitDevice_ch, commitLoop_ch, if_pos hi]
  generalize (dev.ch i).committed u dev.reload = c' at *
  exact ⟨by rw [hregs], hcfg, by rw [hregs]⟩

/-- A channel that is not selected after COMMIT: only its active compare value can change (R91, R95). -/
theorem commitDevice_ch_of_not_selected (h : (dev.ch i).selected u = false) :
    (commitDevice p u dev).1.ch i =
      { dev.ch i with compareAct := ((commitDevice p u dev).1.ch i).compareAct } := by
  rw [commitDevice_ch, commitLoop_ch, Channel.committed_of_not u dev.reload _ h, ite_self]

/-- COMMIT stops no counter while a record is counted (R95). -/
theorem commitDevice_counter_of_counted (hi : i.val < dev.nCh) (h : countsRecord p.countRule (dev.ch i) = true) :
    (commitDevice p u dev).1.counterEn = dev.counterEn ∨ (commitDevice p u dev).1.counterEn = true := by
  have htotal : enabledTotal p.countRule dev ≠ 0 := fun h0 => by
    simp [enabledTotal_eq_zero.mp h0 i hi] at h
  obtain ⟨h0, -⟩ | ⟨-, -, hc⟩ | ⟨-, -, hc⟩ := commitDevice_cases p u dev
  · exact absurd h0 htotal
  · exact .inr (by rw [hc]; rfl)
  · exact .inl (by rw [hc, commitLoop_frame])

end CommitAll

/-! ### The command -/

/-- The slot with the staged pair written (R84). -/
def Device.withDivisors (dev : Device) (r : DivisorPair) : Device :=
  { dev with prescale := r.prescale, reload := r.reload }

@[simp] theorem Device.ch_withDivisors (dev : Device) (r : DivisorPair) (i : ChIdx) :
    (dev.withDivisors r).ch i = dev.ch i := rfl

section SetFrequency

variable {s : State} {d : Byte} {f : Word} {dev : Device} (hd : s.dev? d.toNat = some dev) (hv : dev.valid = true)
include hd hv

theorem execSetFrequency_of_none (hs : solve dev.timerClock f = none) :
    execSetFrequency d f s = .next { s with result := ResultCode.frequency.word } := by
  simp only [execSetFrequency, liveDevice_eq_some.mpr ⟨hd, hv⟩, hs, finish_eq]

theorem execSetFrequency_of_some {r : DivisorPair} (hs : solve dev.timerClock f = some r) :
    execSetFrequency d f s = .next
      { commit d.toNat true (s.setDev d.toNat (dev.withDivisors r)) with result := ResultCode.ok.word } := by
  simp only [execSetFrequency, liveDevice_eq_some.mpr ⟨hd, hv⟩, hs, finish_eq, Device.withDivisors]

end SetFrequency

/-- Settles O16: the two errors are those of SOLVE. -/
theorem setFrequencyRejects : Obligations.SetFrequencyRejects :=
  fun _ _ _ _ hd hv hf => execSetFrequency_of_none hd hv (solve_eq_none.mpr hf)

/-- Settles O15: the slot is the commit, with `update_all`, of the slot with its new divisors. -/
theorem setFrequencyCompletes : Obligations.SetFrequencyCompletes := by
  intro s d f dev hd hv hf hle
  obtain ⟨r, hr⟩ : ∃ r, solve dev.timerClock f = some r := by
    rw [← Option.ne_none_iff_exists', ne_eq, solve_eq_none, not_or]
    exact ⟨hf, BitVec.not_lt.mpr hle⟩
  obtain ⟨hprescale, hreload⟩ := solve_toNat hr
  obtain ⟨-, -, -, -, hp, hq⟩ := commitDevice_frame s.plat true (dev.withDivisors r)
  refine ⟨_, (commitDevice s.plat true (dev.withDivisors r)).1, execSetFrequency_of_some hd hv hr, rfl,
    commit_dev?_same true (State.dev?_setDev_same hd _), (congrArg BitVec.toNat hp).trans hprescale,
    (congrArg BitVec.toNat hq).trans hreload, fun i hi he => ?_, fun i he => ?_, fun hnone => ?_,
    fun hrule ⟨i, hi, hne⟩ => ?_⟩
  · obtain ⟨hcompare, hcfg, hregs⟩ :=
      commitDevice_ch_of_selected s.plat true (dev := dev.withDivisors r) hi ((Channel.selected_true _).trans he)
    refine ⟨?_, hcfg, hregs⟩
    rw [hcompare, dutyToCompare_toNat, hq, Device.ch_withDivisors]
  · exact commitDevice_ch_of_not_selected _ _ (dev := dev.withDivisors r) ((Channel.selected_true _).trans he)
  · by_contra hrun
    obtain ⟨i, hi, hne⟩ := commitDevice_counter _ _ _ (Bool.eq_true_of_not_eq_false hrun)
    exact hne (hnone i hi)
  · have hcounted : countsRecord s.plat.countRule (dev.ch i) = true := by
      rw [hrule, countsRecord, Bool.not_eq_true', Bool.eq_false_iff, ne_eq, Channel.disabled_iff]
      exact hne
    exact commitDevice_counter_of_counted _ _ (dev := dev.withDivisors r) hi hcounted

end Sys2Proof.Machine
end

section
/-! PROOFS. DUTY_TO_COMPARE and the loop of COMMIT (spec/41_commit_engine.md R90 to R94): the scaled value, the two
branches of the loop body, and what the two totals count. -/

namespace Sys2Proof.Machine

/-! ### DUTY_TO_COMPARE -/

/-- The compare value stays below the period: a duty is less than 2^16 parts of it (R90). -/
theorem dutyToCompare_lt (duty reload : Half) : (dutyToCompare duty reload).toNat < reload.toNat + 1 := by
  rw [dutyToCompare_toNat]
  exact Nat.div_lt_of_lt_mul (Nat.mul_lt_mul_of_pos_right duty.isLt (Nat.succ_pos _))

theorem dutyToCompare_mono {duty duty' : Half} (h : duty.toNat ≤ duty'.toNat) (reload : Half) :
    (dutyToCompare duty reload).toNat ≤ (dutyToCompare duty' reload).toNat := by
  rw [dutyToCompare_toNat, dutyToCompare_toNat]
  exact Nat.div_le_div_right (Nat.mul_le_mul_right _ h)

/-- Settles O17: every clause is about the exact quotient, since no bit is lost (`dutyToCompare_toNat`). -/
theorem dutyToCompareScales : Obligations.DutyToCompareScales := by
  intro duty duty' reload
  have hzero : (0 : Half).toNat = 0 := rfl
  refine ⟨dutyToCompare_toNat duty reload, dutyToCompare_lt duty reload, ?_, ?_, fun hodd => ?_,
    fun h => dutyToCompare_mono h reload⟩
  · apply BitVec.eq_of_toNat_eq
    rw [dutyToCompare_toNat, hzero, Nat.zero_mul, Nat.zero_div]
  · apply BitVec.eq_of_toNat_eq
    rw [dutyToCompare_toNat, hzero, Nat.zero_add, Nat.mul_one, Nat.div_eq_of_lt duty.isLt]
  · have hhalf : (32768 : Half).toNat = 32768 := rfl
    rw [dutyToCompare_toNat, hhalf]
    omega

/-! ### The two branches of the loop body -/

theorem Channel.configures_iff {u : Bool} {c : Channel} :
    c.configures u = true ↔ c.selected u = true ∧ c.cfg.configure = true := by
  rw [Channel.configures, Bool.and_eq_true]

/-- A selected record is enabled (R91). -/
theorem Channel.enabled_of_selected {u : Bool} {c : Channel} (h : c.selected u = true) : c.cfg.enabled = true := by
  simp only [Channel.selected, Bool.and_eq_true] at h
  exact h.1.2

/-- With `update_all = 0` the loop passes over a record whose `update` flag is clear (R91). -/
theorem Channel.selected_false_of_settled {c : Channel} (h : c.cfg.update = false) : c.selected false = false := by
  simp [Channel.selected, h]

/-- The loop body rewrites one channel of the slot (R91). -/
theorem commitChannel_writes (u : Bool) (dev : Device) (total : Nat) (i : ChIdx) :
    ∃ dev' : Device, commitChannel u (dev, total) i = (dev', total + ((dev.ch i).configures u).toNat) ∧
      dev'.ch i = (dev.ch i).committed u dev.reload ∧
      (∀ j, j ≠ i → dev'.ch j = dev.ch j) ∧ dev' = { dev with chs := dev'.chs } :=
  ⟨_, commitChannel_eq u (dev, total) i, Device.ch_setCh_same _ _ _, fun _ hj => Device.ch_setCh_ne _ hj _, rfl⟩

/-- Settles O18: the loop body is the configure branch, and the channel is counted. -/
theorem configureBranchWrites : Obligations.ConfigureBranchWrites := by
  intro u dev total i
  dsimp only
  intro hsel hconf
  obtain ⟨dev', heq, hch, hothers, hframe⟩ := commitChannel_writes u dev total i
  rw [Channel.configures_iff.mpr ⟨hsel, hconf⟩] at heq
  refine ⟨dev', heq, ?_, ?_, hothers, hframe⟩ <;> rw [hch]
  · rw [Channel.committed_of_selected u _ hsel]
    simp [hconf]
  · rw [Channel.committed_cfg, if_pos hsel]

/-- Settles O19: the loop body is the cheap path, and the channel is not counted. -/
theorem cheapPathWritesOnlyCompare : Obligations.CheapPathWritesOnlyCompare := by
  intro u dev total i
  dsimp only
  intro hsel hconf
  obtain ⟨dev', heq, hch, hothers, hframe⟩ := commitChannel_writes u dev total i
  rw [Channel.configures, hconf, Bool.and_false] at heq
  refine ⟨dev', heq, ?_, ?_, hothers, hframe⟩ <;> rw [hch]
  · rw [Channel.committed_of_selected u _ hsel]
    simp [hconf]
  · rw [Channel.committed_cfg, if_pos hsel, ← hconf]

/-! ### What the two totals count -/

theorem Device.length_indices (dev : Device) : dev.indices.length = dev.nCh := by
  unfold Device.indices Device.nCh
  cases dev.chCount <;> rfl

/-- Counting over the channel indices is a cardinality. -/
theorem Device.countP_indices (dev : Device) (P : ChIdx → Bool) :
    dev.indices.countP P = (Finset.univ.filter fun i : ChIdx => i.val < dev.nCh ∧ P i = true).card := by
  have hset : dev.indices.toFinset = Finset.univ.filter fun i : ChIdx => i.val < dev.nCh := by
    ext i
    simp [Device.mem_indices]
  have hcount := dev.indices_nodup.card_eq_countP (P := fun i => P i = true)
  rw [hset, Finset.filter_filter] at hcount
  simpa using hcount.symm

/-- The normative rule counts the records that are not `SENTINEL` (R94). -/
theorem Channel.counted_nonDisabled_iff {c : Channel} :
    countsRecord .nonDisabled c = true ↔ c.chcfg ≠ Config.sentinel := by
  rw [countsRecord, Bool.not_eq_true', Bool.eq_false_iff, ne_eq, Channel.disabled_iff]

/-- An enabled record is counted, under either counting rule (R94, U9). -/
theorem Channel.counted_of_enabled {c : Channel} (h : c.cfg.enabled = true) (rule : CountRule) :
    countsRecord rule c = true := by
  cases rule with
  | nonDisabled => rw [countsRecord, Channel.enabled_not_disabled h, Bool.not_false]
  | enabledFlag => exact h

theorem Channel.counted_of_configures {u : Bool} {c : Channel} (h : c.configures u = true) (rule : CountRule) :
    countsRecord rule c = true :=
  Channel.counted_of_enabled (Channel.enabled_of_selected (Channel.configures_iff.mp h).1) rule

/-- `configured_total <= enabled_total` (R94, U9). -/
theorem commitLoop_total_le (rule : CountRule) (u : Bool) (dev : Device) :
    (commitLoop u dev).2 ≤ enabledTotal rule dev := by
  rw [commitLoop_total]
  exact List.countP_mono_left fun i _ h => Channel.counted_of_configures h rule

theorem enabledTotal_le_nCh (rule : CountRule) (dev : Device) : enabledTotal rule dev ≤ dev.nCh :=
  List.countP_le_length.trans_eq dev.length_indices

/-- The loop writes no register of the slot beside its channels (R91 to R93). -/
theorem commitLoop_registers (u : Bool) (dev : Device) :
    let r := (commitLoop u dev).1
    r.prescale = dev.prescale ∧ r.reload = dev.reload ∧ r.prescaleAct = dev.prescaleAct ∧
      r.reloadAct = dev.reloadAct ∧ r.counterEn = dev.counterEn ∧ r.pending = dev.pending := by
  dsimp only
  rw [commitLoop_frame]
  exact ⟨rfl, rfl, rfl, rfl, rfl, rfl⟩

/-- The loop writes no active compare value (R92, R93). -/
theorem commitLoop_compareAct (u : Bool) (dev : Device) (i : ChIdx) :
    ((commitLoop u dev).1.ch i).compareAct = (dev.ch i).compareAct := by
  rw [commitLoop_ch, apply_ite Channel.compareAct, Channel.committed_compareAct, ite_self]

/-- Settles O20: the loop channel by channel, and the totals as cardinalities. -/
theorem commitLoopAndTotals : Obligations.CommitLoopAndTotals := by
  intro u dev
  dsimp only
  refine ⟨fun i hi hsel => ⟨?_, ?_⟩, fun i hi => ?_, ?_, ?_, fun rule => ?_⟩
  · rw [commitLoop_ch, if_pos hi, Channel.committed_of_selected u _ hsel]
    exact dutyToCompare_toNat _ _
  · rw [commitLoop_ch, if_pos hi, Channel.committed_cfg, if_pos hsel]
  · rw [commitLoop_ch]
    obtain hout | hsel := hi
    · exact if_neg (Nat.not_lt.mpr hout)
    · rw [Channel.committed_of_not u _ _ hsel, ite_self]
  · simp only [commitLoop_total, Device.countP_indices, Channel.configures_iff]
  · rw [enabledTotal_commitLoop, enabledTotal]
    simp only [Device.countP_indices, Channel.counted_nonDisabled_iff]
    rfl
  · rw [enabledTotal_commitLoop]
    exact ⟨commitLoop_total_le rule u dev, enabledTotal_le_nCh rule dev⟩

end Sys2Proof.Machine
end

section
/-! PROOFS. The counter policy of COMMIT and the glitch-free addition of a channel (spec/41_commit_engine.md R95, R96). -/

namespace Sys2Proof.Machine

/-! ### The arms of the counter policy -/

section Arms

variable (p : Platform) (u : Bool) {dev : Device}

/-- With no counted record COMMIT stops the counter (R95). -/
theorem commitDevice_stops (h : enabledTotal p.countRule dev = 0) :
    commitDevice p u dev = ({ (commitLoop u dev).1 with counterEn := false }, false) := by
  obtain ⟨-, hc⟩ | ⟨hne, -⟩ | ⟨hne, -⟩ := commitDevice_cases p u dev
  · exact hc
  · exact absurd h hne
  · exact absurd h hne

/-- With every counted record freshly configured COMMIT is a cold start (R95). -/
theorem commitDevice_coldStarts (h₀ : enabledTotal p.countRule dev ≠ 0)
    (h : enabledTotal p.countRule dev = (commitLoop u dev).2) :
    commitDevice p u dev = ((commitLoop u dev).1.restart p.forceUpdatePends, true) := by
  obtain ⟨hz, -⟩ | ⟨-, -, hc⟩ | ⟨-, hne, -⟩ := commitDevice_cases p u dev
  · exact absurd hz h₀
  · exact hc
  · exact absurd h hne

/-- With a counted record that was not freshly configured COMMIT leaves the counter alone (R95). -/
theorem commitDevice_leavesCounter (h₀ : enabledTotal p.countRule dev ≠ 0)
    (h : enabledTotal p.countRule dev ≠ (commitLoop u dev).2) :
    commitDevice p u dev = ((commitLoop u dev).1, false) := by
  obtain ⟨hz, -⟩ | ⟨-, heq, -⟩ | ⟨-, -, hc⟩ := commitDevice_cases p u dev
  · exact absurd hz h₀
  · exact absurd heq h
  · exact hc

end Arms

theorem commit_outputs {s : State} {d : Nat} {dev : Device} (u : Bool) (h : s.dev? d = some dev) :
    (commit d u s).outputs = s.outputs ++ if (commitDevice s.plat u dev).2 then [.counterReset d] else [] := by
  rw [commit_eq u h]

/-- Settles O21: the arms of `commitDevice`, carried to the state. -/
theorem counterPolicyArms : Obligations.CounterPolicyArms := by
  intro s d u dev hd
  dsimp only
  rw [enabledTotal_commitLoop, commit_dev?_same u hd, commit_outputs u hd]
  refine ⟨fun h₀ => ?_, fun h₀ h => ?_, fun h₀ h => ?_⟩
  · rw [commitDevice_stops s.plat u h₀]
    exact ⟨rfl, List.append_nil _⟩
  · rw [commitDevice_coldStarts s.plat u h₀ h]
    exact ⟨rfl, rfl⟩
  · rw [commitDevice_leavesCounter s.plat u h₀ h]
    exact ⟨rfl, List.append_nil _⟩

/-! ### When every counted record is freshly configured -/

/-- The totals agree exactly where every counted record takes the configure branch (R95). -/
theorem enabledTotal_eq_total_iff {rule : CountRule} {u : Bool} {dev : Device} :
    enabledTotal rule dev = (commitLoop u dev).2 ↔
      ∀ i : ChIdx, i.val < dev.nCh → countsRecord rule (dev.ch i) = true → (dev.ch i).configures u = true := by
  have hsub : (Finset.univ.filter fun i : ChIdx => i.val < dev.nCh ∧ (dev.ch i).configures u = true) ⊆
      Finset.univ.filter fun i : ChIdx => i.val < dev.nCh ∧ countsRecord rule (dev.ch i) = true :=
    Finset.monotone_filter_right _ fun i _ ⟨hi, hc⟩ => ⟨hi, Channel.counted_of_configures hc rule⟩
  rw [← (commitLoop_total_le rule u dev).ge_iff_eq', commitLoop_total, enabledTotal, Device.countP_indices,
    Device.countP_indices, Finset.eq_iff_card_le_of_subset hsub]
  simp only [Finset.filter_inj', Finset.mem_univ, true_implies, and_congr_right_iff]
  exact forall₂_congr fun i _ => ⟨Iff.mpr, fun h => ⟨fun hc => Channel.counted_of_configures hc rule, h⟩⟩

/-- A counted record keeps the counter from stopping (R95). -/
theorem enabledTotal_ne_zero {rule : CountRule} {dev : Device} {i : ChIdx} (hi : i.val < dev.nCh)
    (h : countsRecord rule (dev.ch i) = true) : enabledTotal rule dev ≠ 0 := by
  intro h₀
  rw [enabledTotal_eq_zero.mp h₀ i hi] at h
  cases h

/-! ### ENABLE_DUTY_CYCLE -/

section Enable

variable (c : Channel) (duty : Half) (u : Bool)

theorem Channel.cfg_enable : (c.enable duty).cfg = { c.cfg with duty := duty, enabled := true, update := true } :=
  c.cfg_setCfg _

/-- The loop runs on the channel the command enables (R91, spec/44_channel_commands.md R137). -/
theorem Channel.selected_enable : (c.enable duty).selected u = true := by
  have he : (c.enable duty).cfg.enabled = true := by rw [Channel.cfg_enable]
  have hu : (c.enable duty).cfg.update = true := by rw [Channel.cfg_enable]
  rw [Channel.selected, Channel.enabled_not_disabled he, he, hu, Bool.or_true]
  rfl

theorem Channel.configures_enable : (c.enable duty).configures u = c.cfg.configure := by
  rw [Channel.configures, Channel.selected_enable, Bool.true_and, Channel.cfg_enable]

end Enable

/-- The slot before the commit of ENABLE_DUTY_CYCLE: channel `i` enabled (spec/44_channel_commands.md R137). -/
def Device.enableCh (dev : Device) (i : ChIdx) (duty : Half) : Device := dev.setCh i ((dev.ch i).enable duty)

section EnableCh

variable {dev : Device} {i : ChIdx} (duty : Half)

theorem Device.ch_enableCh_same : (dev.enableCh i duty).ch i = (dev.ch i).enable duty := Device.ch_setCh_same _ _ _

theorem Device.ch_enableCh_ne {j : ChIdx} (h : j ≠ i) : (dev.enableCh i duty).ch j = dev.ch j :=
  Device.ch_setCh_ne _ h _

theorem Device.ch_enableCh_compareAct (j : ChIdx) :
    ((dev.enableCh i duty).ch j).compareAct = (dev.ch j).compareAct := by
  by_cases h : j = i
  · rw [h, Device.ch_enableCh_same, Channel.enable, Channel.setCfg_compareAct]
  · rw [Device.ch_enableCh_ne _ h]

/-- Beside a counted record that the loop does not select, the commit of an enabled channel is no cold start (R95). -/
theorem commitDevice_enableCh_beside (p : Platform) {a : ChIdx} (hne : a ≠ i) (ha : a.val < dev.nCh)
    (hcounted : countsRecord p.countRule (dev.ch a) = true) (hnot : (dev.ch a).selected false = false) :
    commitDevice p false (dev.enableCh i duty) = ((commitLoop false (dev.enableCh i duty)).1, false) := by
  rw [← Device.ch_enableCh_ne duty hne] at hcounted hnot
  refine commitDevice_leavesCounter p false (enabledTotal_ne_zero (dev := dev.enableCh i duty) ha hcounted) fun heq => ?_
  have hconf := enabledTotal_eq_total_iff.mp heq a ha hcounted
  rw [Channel.configures, hnot] at hconf
  cases hconf

/-- The commit of the only non-disabled record, with `configure` set, is a cold start (R95). -/
theorem commitDevice_enableCh_alone (p : Platform) (hi : i.val < dev.nCh) (hconf : (dev.ch i).cfg.configure = true)
    (hothers : ∀ j : ChIdx, j ≠ i → (dev.ch j).chcfg = Config.sentinel) :
    commitDevice p false (dev.enableCh i duty) =
      ((commitLoop false (dev.enableCh i duty)).1.restart p.forceUpdatePends, true) := by
  have hconfigures : ((dev.enableCh i duty).ch i).configures false = true := by
    rw [Device.ch_enableCh_same, Channel.configures_enable, hconf]
  have hcounted := Channel.counted_of_configures hconfigures p.countRule
  refine commitDevice_coldStarts p false (enabledTotal_ne_zero (dev := dev.enableCh i duty) hi hcounted)
    (enabledTotal_eq_total_iff.mpr fun j _ hj => ?_)
  obtain rfl | hji := eq_or_ne j i
  · exact hconfigures
  · have hlive := not_disabled_of_counted hj
    rw [Device.ch_enableCh_ne duty hji, (Channel.disabled_iff _).mpr (hothers j hji)] at hlive
    cases hlive

end EnableCh

/-- ENABLE_DUTY_CYCLE on a channel in range: the slot is the commit of the slot with the channel enabled
(spec/44_channel_commands.md R137). -/
theorem enableDutyCycle_commits {s : State} {d ch : Byte} {dev : Device} {i : ChIdx} (duty : Half)
    (hd : s.dev? d.toNat = some dev) (hv : dev.valid = true) (hch : i.val = ch.toNat) (hi : i.val < dev.nCh) :
    let r := commitDevice s.plat false (dev.enableCh i duty)
    ∃ t : State, exec (.enableDutyCycle d ch duty) s = .next t ∧ t.dev? d.toNat = some r.1 ∧
      t.outputs = s.outputs ++ if r.2 then [.counterReset d.toNat] else [] := by
  have hslot := State.dev?_setDev_same hd (dev.enableCh i duty)
  have hexec : exec (.enableDutyCycle d ch duty) s =
      finish .ok (commit d.toNat false (s.setDev d.toNat (dev.enableCh i duty))) := by
    show execEnableDutyCycle d ch duty s = _
    simp only [execEnableDutyCycle, liveDevice_eq_some.mpr ⟨hd, hv⟩, channelIndex_eq_some.mpr ⟨hch, hch ▸ hi⟩,
      Device.enableCh]
  exact ⟨_, hexec, commit_dev?_same false hslot, commit_outputs false hslot⟩

/-- Settles O22: the record of `a` is counted and, with its `update` flag clear, not selected, so the totals differ. -/
theorem addedChannelLeavesCounterAlone : Obligations.AddedChannelLeavesCounterAlone := by
  intro s d ch duty dev i a hd hv hinv hch hi hne ha he
  obtain ⟨t, hexec, hslot, hout⟩ := enableDutyCycle_commits duty hd hv hch hi
  have hnot := Channel.selected_false_of_settled (hinv.channels a).settled
  rw [commitDevice_enableCh_beside duty s.plat hne ha (Channel.counted_of_enabled he _) hnot] at hslot hout
  obtain ⟨-, -, hprescale, hreload, hcounter, -⟩ := commitLoop_registers false (dev.enableCh i duty)
  refine ⟨t, _, hexec, hslot, hcounter, hprescale, hreload, fun j => ?_, ?_, hout.trans (List.append_nil _)⟩
  · rw [commitLoop_compareAct, Device.ch_enableCh_compareAct]
  · rw [commitLoop_ch, Device.ch_enableCh_ne duty hne, Channel.committed_of_not _ _ _ hnot, ite_self]

/-- Settles O23: the one counted record takes the configure branch, so the totals agree. -/
theorem firstEnableColdStarts : Obligations.FirstEnableColdStarts := by
  intro s d ch duty dev i hd hv hch hi hconf hothers
  obtain ⟨t, hexec, hslot, hout⟩ := enableDutyCycle_commits duty hd hv hch hi
  rw [commitDevice_enableCh_alone duty s.plat hi hconf hothers] at hslot hout
  obtain ⟨hprescale, hreload, -, -, -, hpending⟩ := commitLoop_registers false (dev.enableCh i duty)
  refine ⟨t, _, hexec, hslot, rfl, hprescale, hreload, fun j => ?_, congrArg (· || _) hpending, hout⟩
  rw [Device.ch_restart, Channel.latch_compareAct, Channel.latch_compare]

end Sys2Proof.Machine
end

section
/-! PROOFS. The transitions of the handler row by row (spec/42_countdown_handler.md R113), what ends a segment, and the
inputs that need no more than that: two events in a row, and the callee's return. -/

namespace Sys2Proof.Machine

/-! ### The rows from `SCAN(d)` -/

section ScanRows

variable {s : State} {d : Nat} (hs : s.hstate = .scan d)
include hs

theorem handlerMicro_scan : handlerMicro s = scanDevice d s := by simp only [handlerMicro, hs]

theorem handlerMicro_return (hd : s.dev? d = none) : handlerMicro s = s.goto .idle := by
  simp only [handlerMicro_scan hs, scanDevice, hd, returnFromInterrupt]

theorem handlerMicro_skip {dev : Device} (hd : s.dev? d = some dev) (hr : dev.requests = false) :
    handlerMicro s = s.goto (.scan (d + 1)) := by
  simp [handlerMicro_scan hs, scanDevice, hd, hr]

theorem handlerMicro_serve {dev : Device} (hd : s.dev? d = some dev) (hr : dev.requests = true) :
    handlerMicro s = (s.setDev d { dev with pending := false }).goto (.chan d 0) := by
  simp [handlerMicro_scan hs, scanDevice, hd, hr]

end ScanRows

/-! ### The rows from `CHAN(d, j)` -/

/-- The slot with `CYCLE` of channel `i` counted down (R106). -/
def Device.countCh (dev : Device) (i : ChIdx) : Device :=
  dev.setCh i ((dev.ch i).withCycle (countDown (dev.ch i).cycle))

/-- The slot with `CYCLE` of channel `i` re-armed (R104). -/
def Device.rearmCh (dev : Device) (i : ChIdx) : Device :=
  dev.setCh i ((dev.ch i).withCycle (dev.ch i).cycleCount)

theorem handlerMicro_leave {s : State} {d j : Nat} (hs : s.hstate = .chan d j)
    (hj : ∀ dev, s.dev? d = some dev → dev.nCh ≤ j) : handlerMicro s = s.goto (.scan (d + 1)) := by
  simp only [handlerMicro, hs, scanChannel]
  split
  · rfl
  · next dev hd =>
    split
    · exact if_neg (Nat.not_lt.mpr (hj dev hd))
    · rfl

section ChannelRows

variable {s : State} {d : Nat} {i : ChIdx} {dev : Device} (hs : s.hstate = .chan d i.val) (hd : s.dev? d = some dev)
  (hi : i.val < dev.nCh)
include hs hd hi

theorem handlerMicro_examine : handlerMicro s = examineChannel d i dev s := by
  simp [handlerMicro, hs, scanChannel, hd, hi]

theorem handlerMicro_pass (he : (dev.ch i).cfg.enabled = false) :
    handlerMicro s = s.goto (.chan d (i.val + 1)) := by
  simp [handlerMicro_examine hs hd hi, examineChannel, he]

variable (he : (dev.ch i).cfg.enabled = true)
include he

theorem handlerMicro_terminal (hc : (dev.ch i).cycle = 1) : handlerMicro s = terminalPeriod d i dev s := by
  simp [handlerMicro_examine hs hd hi, examineChannel, he, hc]

theorem handlerMicro_ordinary (hc : (dev.ch i).cycle ≠ 1) : handlerMicro s = ordinaryPeriod d i dev s := by
  simp only [handlerMicro_examine hs hd hi, examineChannel, he, if_true, if_neg hc]

theorem handlerMicro_callSeq (hc : (dev.ch i).cycle = 1) (hcb : (dev.ch i).seqCb ≠ 0) :
    handlerMicro s =
      presentCallback .seq d i.val (dev.ch i).seqCb (dev.ch i).seqData (s.setDev d (dev.rearmCh i)) :=
  (handlerMicro_terminal hs hd hi he hc).trans (if_neg hcb)

theorem handlerMicro_expire (hc : (dev.ch i).cycle = 1) (hcb : (dev.ch i).seqCb = 0) :
    handlerMicro s = (disableChannel d i (s.setDev d (dev.rearmCh i))).2.goto (.chan d (i.val + 1)) :=
  (handlerMicro_terminal hs hd hi he hc).trans (if_pos hcb)

theorem handlerMicro_callCycle (hc : (dev.ch i).cycle ≠ 1) (hcb : (dev.ch i).cycleCb ≠ 0) :
    handlerMicro s =
      presentCallback .cycle d i.val (dev.ch i).cycleCb (dev.ch i).cycleData (s.setDev d (dev.countCh i)) :=
  (handlerMicro_ordinary hs hd hi he hc).trans (if_neg hcb)

theorem handlerMicro_count (hc : (dev.ch i).cycle ≠ 1) (hcb : (dev.ch i).cycleCb = 0) :
    handlerMicro s = (s.setDev d (dev.countCh i)).goto (.chan d (i.val + 1)) :=
  (handlerMicro_ordinary hs hd hi he hc).trans (if_pos hcb)

end ChannelRows

/-- The countdown in the words of R106. -/
theorem countDown_eq (x : Word) : countDown x = if x = 0 then x else x - 1 := by
  unfold countDown
  split
  · next h => exact h.symm
  · rfl

theorem Device.requests_eq_false {dev : Device} (h : dev.valid = false ∨ dev.pending = false) :
    dev.requests = false := by
  rwa [Device.requests, Bool.and_eq_false_iff]

/-- Settles O46: each clause is one row. -/
theorem handlerTransitionTable : Obligations.HandlerTransitionTable := by
  intro s d
  refine ⟨fun hs => ⟨fun hn => ?_, fun dev hd => ⟨fun hq => ?_, fun hv hp => ?_⟩⟩,
    fun j dev hs hd => ⟨fun hj => ?_, ?_⟩⟩
  · exact handlerMicro_return hs (State.dev?_none_iff.mpr hn.ge)
  · exact handlerMicro_skip hs hd (Device.requests_eq_false hq)
  · exact handlerMicro_serve hs hd (by simp [Device.requests, hv, hp])
  · refine handlerMicro_leave hs fun dev' hd' => ?_
    obtain rfl := Option.some.inj (hd.symm.trans hd')
    exact hj.ge
  · rintro i rfl hi
    dsimp only
    rw [← countDown_eq]
    exact ⟨handlerMicro_pass hs hd hi, handlerMicro_callSeq hs hd hi, handlerMicro_expire hs hd hi,
      handlerMicro_callCycle hs hd hi, handlerMicro_count hs hd hi⟩

/-! ### What ends a segment -/

/-- Transitions left, at most, from a position among `n` slots to a callback window or `IDLE`: from `SCAN(d)` six for each
slot not yet scanned, and the return. -/
def HState.transitionsLeft (n : Nat) : HState → Nat
  | .idle => 0
  | .scan d => 6 * (n - d) + 1
  | .chan d j => (4 - j) + 6 * (n - (d + 1)) + 2
  | .cb _ _ _ => 0

theorem HState.working_iff_transitionsLeft (n : Nat) (h : HState) : h.working = true ↔ 0 < h.transitionsLeft n := by
  cases h <;> simp [HState.working, HState.transitionsLeft]

/-- Each transition of a working handler leaves fewer to make (R113). -/
theorem HandlerMove.transitionsLeft_lt {s : State} {h : HState} {ds : List Device} (m : HandlerMove s h ds)
    (hw : s.hstate.working = true) : h.transitionsLeft s.nDev < s.hstate.transitionsLeft s.nDev := by
  cases m with
  | wait hs => simp [hs] at hw
  | finish hs => simp [hs, HState.transitionsLeft]
  | skip hs hd =>
    rw [hs]
    simp only [HState.transitionsLeft]
    omega
  | serve hs hd =>
    have := State.dev?_lt hd
    rw [hs]
    simp only [HState.transitionsLeft]
    omega
  | leave hs =>
    rw [hs]
    simp only [HState.transitionsLeft]
    omega
  | @pass d j dev hs hd hj | @next d j dev _ hs hd hj =>
    have := dev.nCh_le
    rw [hs]
    simp only [HState.transitionsLeft]
    omega
  | call hs => simp [hs, HState.transitionsLeft]

/-- Fuel for the transitions left brings the handler to where it waits. -/
theorem runHandler_waits (n : Nat) {s : State} (h : s.hstate.transitionsLeft s.nDev ≤ n) :
    (runHandler n s).hstate.working = false := by
  induction n generalizing s with
  | zero => rwa [runHandler, ← Bool.not_eq_true, s.hstate.working_iff_transitionsLeft s.nDev, Nat.not_lt]
  | succ n ih =>
    cases hw : s.hstate.working with
    | false => rwa [runHandler_of_waiting _ hw]
    | true =>
      have hlt := (handlerMicro_move s).transitionsLeft_lt hw
      rw [runHandler_succ n hw]
      refine ih ?_
      rw [(handlerMicro_writes s).2]
      omega

theorem transitionsLeft_le_segmentFuel (s : State) : s.hstate.transitionsLeft s.nDev ≤ segmentFuel s := by
  cases s.hstate <;> simp only [HState.transitionsLeft, segmentFuel] <;> omega

/-- A segment ends at a callback window or in `IDLE`, from any state (R100). -/
theorem runSegment_waits (s : State) : (runSegment s).hstate.working = false :=
  runHandler_waits _ (transitionsLeft_le_segmentFuel s)

/-- A port access leaves the position of the handler alone. -/
theorem portAccess_hstate {a : Access} {s t : State} (e : portAccess a s = .next t) : t.hstate = s.hstate := by
  obtain ⟨_, _, rfl⟩ | ⟨_, _, _, _, _, _, rfl⟩ | ⟨_, rfl⟩ | ⟨_, _, -, e⟩ := portAccess_next e
  · rfl
  · rfl
  · rfl
  · exact (exec_effect e).hstate_eq

/-- Settles O51: a segment has fuel for the transitions left; a step that runs none starts from a handler that waits, and
leaves it there. -/
theorem segmentsEnd : Obligations.SegmentsEnd := by
  refine ⟨runSegment_waits, fun s t e => ?_⟩
  obtain ⟨-, rfl⟩ | ⟨hw, -, rfl⟩ | ⟨who, a, rest, hw, -, -, e⟩ | ⟨d, rest, dev, hw, -, -, -, -, rfl⟩ |
    ⟨rest, -, -, -, rfl⟩ | ⟨d, j, k, rest, -, -, rfl⟩ := step_next e
  · exact runSegment_waits _
  · exact hw
  · rwa [portAccess_hstate e]
  · exact hw
  · exact runSegment_waits _
  · exact runSegment_waits _

/-! ### Two events, and the callee's return -/

/-- A second event finds the staged values latched and the flag set (spec/20_memory.md R47, R48). -/
theorem Device.periodElapsed_periodElapsed (dev : Device) : dev.periodElapsed.periodElapsed = dev.periodElapsed := rfl

/-- A step on a period-elapsed event writes the slot (spec/20_memory.md R48). -/
theorem step_periodElapsed_next {s t : State} {d : Nat} {rest : List Input} (hw : s.hstate.working = false)
    (hi : s.inputs = .periodElapsed d :: rest) (e : step s = .next t) :
    ∃ dev, s.dev? d = some dev ∧ t = { s with inputs := rest }.setDev d dev.periodElapsed := by
  have hstep : step s = periodEvent d { s with inputs := rest } := step_of_input hw hi
  rw [hstep, periodEvent] at e
  split at e
  · cases e
  · next dev hd =>
    split at e
    · cases e
      exact ⟨dev, hd, rfl⟩
    · cases e

/-- Settles O45: the second event writes the slot the first one wrote with what stands there. -/
theorem coalescedEventsCountOnce : Obligations.CoalescedEventsCountOnce := by
  intro s t u d rest hw hi e₁ e₂
  obtain ⟨dev, hd, rfl⟩ := step_periodElapsed_next hw hi e₁
  obtain ⟨dev', hd', rfl⟩ := step_periodElapsed_next (by exact hw) (by rfl) e₂
  have hslot := State.dev?_setDev_same (s := { s with inputs := .periodElapsed d :: rest }) hd dev.periodElapsed
  obtain rfl := Option.some.inj (hslot.symm.trans hd')
  rw [Device.periodElapsed_periodElapsed]
  exact State.setDev_setDev_same { s with inputs := rest } d _ _

/-- Settles O50: the input is the return, which resumes the handler at the next channel. -/
theorem calleeReturnResumesAtNextChannel : Obligations.CalleeReturnResumesAtNextChannel := by
  intro s d j k rest hs hi
  have hw : s.hstate.working = false := by rw [hs]; rfl
  rw [step_of_input hw hi]
  simp only [takeInput, endCallback, State.resume, hs]
  rfl

end Sys2Proof.Machine
end

section
/-! PROOFS. What the handler's periods make of a slot (spec/42_countdown_handler.md R104 to R106): the countdown, the
re-arm, the automatic disable with its commit; and the frame of a segment. -/

namespace Sys2Proof.Machine

/-! ### COMMIT on the fields the handler reads -/

section CommitChannel

variable (p : Platform) (u : Bool) (dev : Device) (i : ChIdx)

@[simp] theorem commitDevice_enabled : ((commitDevice p u dev).1.ch i).cfg.enabled = (dev.ch i).cfg.enabled := by
  rw [Channel.cfg, commitDevice_chcfg, ← Channel.cfg, commitLoop_ch]
  split
  · exact Channel.committed_enabled _ _ _
  · rfl

@[simp] theorem commitDevice_cycle : ((commitDevice p u dev).1.ch i).cycle = (dev.ch i).cycle := by
  rw [commitDevice_ch, commitLoop_ch]
  dsimp only
  split
  · exact Channel.committed_cycle _ _ _
  · rfl

end CommitChannel

/-- The channel has its `CYCLE_COUNT` and its callbacks as before (spec/10_state.md R29, R30). -/
structure Channel.SameSetup (c c' : Channel) : Prop where
  cycleCount : c'.cycleCount = c.cycleCount
  cycleCb : c'.cycleCb = c.cycleCb
  cycleData : c'.cycleData = c.cycleData
  seqCb : c'.seqCb = c.seqCb
  seqData : c'.seqData = c.seqData

theorem Channel.SameSetup.refl (c : Channel) : c.SameSetup c := ⟨rfl, rfl, rfl, rfl, rfl⟩

theorem Channel.SameSetup.trans {a b c : Channel} (h : a.SameSetup b) (k : b.SameSetup c) : a.SameSetup c :=
  ⟨k.cycleCount.trans h.cycleCount, k.cycleCb.trans h.cycleCb, k.cycleData.trans h.cycleData,
    k.seqCb.trans h.seqCb, k.seqData.trans h.seqData⟩

theorem commitDevice_sameSetup (p : Platform) (u : Bool) (dev : Device) (i : ChIdx) :
    (dev.ch i).SameSetup ((commitDevice p u dev).1.ch i) := by
  rw [commitDevice_ch, commitLoop_ch]
  split
  · exact ⟨Channel.committed_cycleCount _ _ _, Channel.committed_cycleCb _ _ _, Channel.committed_cycleData _ _ _,
      Channel.committed_seqCb _ _ _, Channel.committed_seqData _ _ _⟩
  · exact ⟨rfl, rfl, rfl, rfl, rfl⟩

/-- With no `update` flag set the loop selects no channel (spec/41_commit_engine.md R91, R98). -/
theorem commitLoop_settled {dev : Device} (h : ∀ j : ChIdx, (dev.ch j).cfg.update = false) :
    commitLoop false dev = (dev, 0) := by
  refine List.foldl_fixed' (fun i => ?_) dev.indices
  rw [commitChannel, if_neg (by simp [Channel.selected_false_of_settled (h i)])]

/-- With no `update` flag set COMMIT can only stop the counter (spec/41_commit_engine.md R95, R96(e)). -/
theorem commitDevice_settled (p : Platform) {dev : Device} (h : ∀ j : ChIdx, (dev.ch j).cfg.update = false) :
    commitDevice p false dev = ({ dev with counterEn := false }, false) ∨ commitDevice p false dev = (dev, false) := by
  obtain ⟨-, hc⟩ | ⟨hne, heq, -⟩ | ⟨-, -, hc⟩ := commitDevice_cases p false dev
  · exact .inl (by rw [hc, commitLoop_settled h])
  · exact absurd (by rw [heq, commitLoop_settled h]) hne
  · exact .inr (by rw [hc, commitLoop_settled h])

/-! ### A period of a channel -/

/-- The slot as the commit of an automatic disable finds it: channel `i` re-armed and cleared (R104, R105). -/
def Device.expiredCh (dev : Device) (i : ChIdx) : Device :=
  dev.setCh i ((dev.ch i).withCycle (dev.ch i).cycleCount).clear

section Period

variable (dev : Device) (i : ChIdx)

theorem Device.ch_countCh_same : (dev.countCh i).ch i = (dev.ch i).withCycle (countDown (dev.ch i).cycle) :=
  Device.ch_setCh_same _ _ _

theorem Device.ch_rearmCh_same : (dev.rearmCh i).ch i = (dev.ch i).withCycle (dev.ch i).cycleCount :=
  Device.ch_setCh_same _ _ _

theorem Device.clear_rearmCh : (dev.rearmCh i).setCh i ((dev.rearmCh i).ch i).clear = dev.expiredCh i := by
  rw [Device.ch_rearmCh_same]
  exact Device.setCh_setCh_same _ _ _ _

theorem Device.ch_expiredCh_same :
    (dev.expiredCh i).ch i = ((dev.ch i).withCycle (dev.ch i).cycleCount).clear := Device.ch_setCh_same _ _ _

/-- A disabled record is not selected (R91). -/
theorem Channel.selected_of_sentinel {c : Channel} (h : c.chcfg = Config.sentinel) (u : Bool) :
    c.selected u = false := by
  simp [Channel.selected, c.disabled_iff.mpr h]

/-- The commit of an automatic disable leaves the cleared channel alone but for its active compare value. -/
theorem commitDevice_expiredCh_same (p : Platform) :
    let c := (commitDevice p false (dev.expiredCh i)).1.ch i
    c = { ((dev.ch i).withCycle (dev.ch i).cycleCount).clear with compareAct := c.compareAct } := by
  have hclear := dev.ch_expiredCh_same i
  rw [← hclear]
  exact commitDevice_ch_of_not_selected p false (Channel.selected_of_sentinel (by rw [hclear]; rfl) false)

end Period

theorem countDown_toNat {x : Word} (h : x ≠ 0) : (countDown x).toNat + 1 = x.toNat := by
  rw [countDown, if_neg h]
  bv_omega

/-- Settles O47: both rows of a non-terminal period write the countdown. -/
theorem ordinaryPeriodCountsDownAndCallsBack : Obligations.OrdinaryPeriodCountsDownAndCallsBack := by
  intro s d dev i hs hd hi he hc
  dsimp only
  have hrow : ((dev.ch i).cycleCb = 0 ∧ handlerMicro s = (s.setDev d (dev.countCh i)).goto (.chan d (i.val + 1))) ∨
      ((dev.ch i).cycleCb ≠ 0 ∧ handlerMicro s = presentCallback .cycle d i.val (dev.ch i).cycleCb
        (dev.ch i).cycleData (s.setDev d (dev.countCh i))) := by
    by_cases hcb : (dev.ch i).cycleCb = 0
    · exact .inl ⟨hcb, handlerMicro_count hs hd hi he hc hcb⟩
    · exact .inr ⟨hcb, handlerMicro_callCycle hs hd hi he hc hcb⟩
  have hslot : (handlerMicro s).dev? d = some (dev.countCh i) := by
    have := State.dev?_setDev_same hd (dev.countCh i)
    obtain ⟨-, h⟩ | ⟨-, h⟩ := hrow <;> rw [h] <;> exact this
  refine ⟨dev.countCh i, hslot, rfl, fun j hj => Device.ch_setCh_ne _ hj _, ?_, fun h0 => ?_, fun h2 => ?_,
    fun hcb => ?_, fun hcb => ?_⟩
  · rw [Device.ch_countCh_same]
    rfl
  · rw [Device.ch_countCh_same, h0]
    rfl
  · rw [Device.ch_countCh_same]
    exact countDown_toNat (by bv_omega)
  · rw [handlerMicro_count hs hd hi he hc hcb]
    exact ⟨rfl, rfl⟩
  · rw [handlerMicro_callCycle hs hd hi he hc hcb]
    exact ⟨rfl, rfl⟩

/-! ### The automatic disable -/

section Disable

variable {s : State} {d : Nat} {dev : Device} (i : ChIdx) (hd : s.dev? d = some dev)
include hd

/-- The port events of DISABLE_CH: the release of the pin, and a `CounterReset` where its commit is a cold start
(spec/44_channel_commands.md R140, spec/41_commit_engine.md R95). -/
theorem disableChannel_outputs : (disableChannel d i s).2.outputs =
    s.outputs ++ s.releaseEvents (dev.ch i).cfg.pin ++
      if (commitDevice s.plat false (dev.setCh i (dev.ch i).clear)).2 then [.counterReset d] else [] := by
  have hb := (unassignPin_spec (dev.ch i).cfg.pin s).1
  rw [disableChannel_eq i hd]
  dsimp only
  rw [commit_outputs false (State.dev?_setDev_same ((hb.dev?_eq d).trans hd) _), State.setDev_outputs,
    State.setDev_plat, hb.plat_eq, (unassignPin_events _ s).1]

/-- DISABLE_CH uses one answer of the pin-mux, none for `NOPIN` (spec/20_memory.md R54). -/
theorem disableChannel_answersUsed :
    s.AnswersUsed (disableChannel d i s).2 (if (dev.ch i).cfg.pin = Config.noPin then 0 else 1) := by
  obtain ⟨-, hnone, hone⟩ := unassignPin_events (dev.ch i).cfg.pin s
  rw [disableChannel_eq i hd]
  dsimp only
  rw [commit_frame]
  split
  · next h => exact (hnone h).2
  · next h => exact (hone h).2

theorem expire_devices : (disableChannel d i (s.setDev d (dev.rearmCh i))).2.devices =
    s.devices.set d (commitDevice s.plat false (dev.expiredCh i)).1 := by
  rw [disableChannel_devices i (State.dev?_setDev_same hd _), dev.clear_rearmCh, State.setDev_devices, List.set_set,
    State.setDev_plat]

theorem expire_outputs : (disableChannel d i (s.setDev d (dev.rearmCh i))).2.outputs =
    s.outputs ++ s.releaseEvents (dev.ch i).cfg.pin ++
      if (commitDevice s.plat false (dev.expiredCh i)).2 then [.counterReset d] else [] := by
  rw [disableChannel_outputs i (State.dev?_setDev_same hd _), dev.clear_rearmCh, dev.ch_rearmCh_same]
  rfl

theorem expire_answersUsed : s.AnswersUsed (disableChannel d i (s.setDev d (dev.rearmCh i))).2
    (if (dev.ch i).cfg.pin = Config.noPin then 0 else 1) := by
  have h := disableChannel_answersUsed i (State.dev?_setDev_same hd (dev.rearmCh i))
  rw [dev.ch_rearmCh_same] at h
  exact h

end Disable

/-- No callback is among the port events of an automatic disable (R105). -/
theorem expire_no_callback (s : State) (d : Nat) (dev : Device) (i : ChIdx) (k : CallbackKind) (e x : Nat) (h y : Word) : .callback k e x h y ∉
    s.releaseEvents (dev.ch i).cfg.pin ++
      if (commitDevice s.plat false (dev.expiredCh i)).2 then [Output.counterReset d] else [] := by
  rw [State.releaseEvents, List.mem_append, not_or]
  constructor <;> split <;> simp

/-- The commit of an automatic disable between atomic steps finds no `update` flag set: `SENTINEL` has none. -/
theorem Device.expiredCh_settled {dev : Device} (i : ChIdx) (h : ∀ j : ChIdx, (dev.ch j).cfg.update = false)
    (j : ChIdx) : ((dev.expiredCh i).ch j).cfg.update = false := by
  rw [Device.expiredCh, Device.ch_setCh]
  split
  · exact (Channel.cfg_of_sentinel rfl).2.1
  · exact h j

/-- Settles O48: the two rows of a terminal period; the automatic disable by its slot, its answers and its events. -/
theorem terminalPeriodRearmsThenCallsOrDisables : Obligations.TerminalPeriodRearmsThenCallsOrDisables := by
  intro s d dev i hs hd hi he hc
  dsimp only
  refine ⟨by rw [(handlerMicro_writes s).1], by rw [(handlerMicro_writes s).1], ?_⟩
  by_cases hcb : (dev.ch i).seqCb = 0
  · have hslot := State.SlotWritten.dev?_same ⟨hd, expire_devices i hd⟩
    have hch := commitDevice_expiredCh_same dev i s.plat
    have hout := expire_outputs i hd
    dsimp only at hch
    rw [handlerMicro_expire hs hd hi he hc hcb]
    refine ⟨_, hslot, ?_⟩
    rw [hch, State.goto_outputs, hout, List.append_assoc]
    refine ⟨rfl, rfl, rfl, rfl, rfl, rfl, fun h => absurd hcb h,
      fun _ => ⟨rfl, rfl, rfl, expire_answersUsed i hd, ?_, fun hu => ?_, fun k e x h y hmem => ?_⟩⟩
    · exact (List.prefix_append_right_inj _).mpr (List.prefix_append _ _)
    · have hwarm : (commitDevice s.plat false (dev.expiredCh i)).2 = false := by
        obtain hcom | hcom := commitDevice_settled s.plat (Device.expiredCh_settled i hu) <;> rw [hcom]
      rw [hwarm, if_neg Bool.false_ne_true, List.append_nil]
    · rw [List.drop_left] at hmem
      exact expire_no_callback s d dev i k e x h y hmem
  · rw [handlerMicro_callSeq hs hd hi he hc hcb]
    refine ⟨dev.rearmCh i, State.dev?_setDev_same hd _, ?_⟩
    rw [dev.ch_rearmCh_same]
    exact ⟨rfl, rfl, rfl, rfl, rfl, rfl, fun _ => ⟨rfl, rfl, .refl s, rfl⟩, fun h => absurd h hcb⟩

/-! ### The frame of a transition -/

/-- Between atomic steps a transition writes of a channel `CYCLE`, and clears the record with its output (R104 to R106). -/
structure Channel.Serviced (c c' : Channel) : Prop where
  registers : c' = { c with cycle := c'.cycle, chcfg := c'.chcfg, chOutEn := c'.chOutEn }
  record : (c'.chcfg = c.chcfg ∧ c'.chOutEn = c.chOutEn) ∨ (c'.chcfg = Config.sentinel ∧ c'.chOutEn = false)

theorem Channel.Serviced.refl (c : Channel) : c.Serviced c := ⟨rfl, .inl ⟨rfl, rfl⟩⟩

theorem Channel.Serviced.trans {a b c : Channel} (h : a.Serviced b) (k : b.Serviced c) : a.Serviced c := by
  refine ⟨?_, ?_⟩
  · rw [k.registers, h.registers]
  · obtain ⟨hcfg, hout⟩ | hcut := k.record
    · rw [hcfg, hout]
      exact h.record
    · exact .inr hcut

theorem Channel.Serviced.withCycle (c : Channel) (x : Word) : c.Serviced (c.withCycle x) := ⟨rfl, .inl ⟨rfl, rfl⟩⟩

theorem Channel.Serviced.clear (c : Channel) : c.Serviced c.clear := ⟨rfl, .inr ⟨rfl, rfl⟩⟩

/-- A record written by the handler has no `update` flag it did not have. -/
theorem Channel.Serviced.update {c c' : Channel} (h : c.Serviced c') (hu : c.cfg.update = false) :
    c'.cfg.update = false := by
  obtain ⟨hcfg, -⟩ | ⟨hcut, -⟩ := h.record
  · rwa [Channel.cfg, hcfg]
  · exact (Channel.cfg_of_sentinel hcut).2.1

/-- What a transition writes of a slot with no `update` flag set (R102, R105). -/
structure Device.Serviced (dev dev' : Device) : Prop where
  pending : dev'.pending = dev.pending ∨ dev'.pending = false
  counter : dev'.counterEn = dev.counterEn ∨ dev'.counterEn = false
  prescaleAct : dev'.prescaleAct = dev.prescaleAct
  reloadAct : dev'.reloadAct = dev.reloadAct
  channels : ∀ j : ChIdx, (dev.ch j).Serviced (dev'.ch j)

theorem Device.Serviced.trans {a b c : Device} (h : a.Serviced b) (k : b.Serviced c) : a.Serviced c := by
  refine ⟨?_, ?_, k.prescaleAct.trans h.prescaleAct, k.reloadAct.trans h.reloadAct,
    fun j => (h.channels j).trans (k.channels j)⟩
  · obtain hp | hp := k.pending
    · rw [hp]
      exact h.pending
    · exact .inr hp
  · obtain hc | hc := k.counter
    · rw [hc]
      exact h.counter
    · exact .inr hc

/-- The frame of a slot over transitions of the handler (R101 to R106). -/
structure Device.HandlerFrame (dev dev' : Device) : Prop where
  valid : dev'.valid = dev.valid
  handle : dev'.handle = dev.handle
  chCount : dev'.chCount = dev.chCount
  timerClock : dev'.timerClock = dev.timerClock
  prescale : dev'.prescale = dev.prescale
  reload : dev'.reload = dev.reload
  setup : ∀ j : ChIdx, (dev.ch j).SameSetup (dev'.ch j)
  settled : (∀ j : ChIdx, (dev.ch j).cfg.update = false) → dev.Serviced dev'

theorem Device.HandlerFrame.nCh {dev dev' : Device} (h : dev.HandlerFrame dev') : dev'.nCh = dev.nCh :=
  congrArg channelsOf h.chCount

theorem Device.HandlerFrame.trans {a b c : Device} (h : a.HandlerFrame b) (k : b.HandlerFrame c) :
    a.HandlerFrame c := by
  refine ⟨k.valid.trans h.valid, k.handle.trans h.handle, k.chCount.trans h.chCount, k.timerClock.trans h.timerClock,
    k.prescale.trans h.prescale, k.reload.trans h.reload, fun j => (h.setup j).trans (k.setup j), fun hu => ?_⟩
  have hab := h.settled hu
  exact hab.trans (k.settled fun j => (hab.channels j).update (hu j))

section HandlerFrame

variable (dev : Device)

theorem Device.HandlerFrame.refl : dev.HandlerFrame dev :=
  ⟨rfl, rfl, rfl, rfl, rfl, rfl, fun _ => .refl _, fun _ => ⟨.inl rfl, .inl rfl, rfl, rfl, fun _ => .refl _⟩⟩

theorem Device.HandlerFrame.serve : dev.HandlerFrame { dev with pending := false } :=
  ⟨rfl, rfl, rfl, rfl, rfl, rfl, fun _ => .refl _, fun _ => ⟨.inr rfl, .inl rfl, rfl, rfl, fun _ => .refl _⟩⟩

theorem Device.HandlerFrame.setCh {k : ChIdx} {c : Channel} (hset : (dev.ch k).SameSetup c)
    (hserv : (dev.ch k).Serviced c) : dev.HandlerFrame (dev.setCh k c) := by
  refine ⟨rfl, rfl, rfl, rfl, rfl, rfl, fun j => ?_, fun _ => ⟨.inl rfl, .inl rfl, rfl, rfl, fun j => ?_⟩⟩ <;>
    rw [Device.ch_setCh]
  · split
    · next h => exact h ▸ hset
    · exact .refl _
  · split
    · next h => exact h ▸ hserv
    · exact .refl _

theorem Device.HandlerFrame.countCh (i : ChIdx) : dev.HandlerFrame (dev.countCh i) :=
  .setCh dev ⟨rfl, rfl, rfl, rfl, rfl⟩ (.withCycle _ _)

theorem Device.HandlerFrame.rearmCh (i : ChIdx) : dev.HandlerFrame (dev.rearmCh i) :=
  .setCh dev ⟨rfl, rfl, rfl, rfl, rfl⟩ (.withCycle _ _)

theorem Device.HandlerFrame.commit (p : Platform) : dev.HandlerFrame (commitDevice p false dev).1 := by
  obtain ⟨hv, hh, hc, ht, hp, hr⟩ := commitDevice_frame p false dev
  refine ⟨hv, hh, hc, ht, hp, hr, commitDevice_sameSetup p false dev, fun hu => ?_⟩
  obtain h | h := commitDevice_settled p hu <;> rw [h]
  · exact ⟨.inl rfl, .inr rfl, rfl, rfl, fun _ => .refl _⟩
  · exact (refl dev).settled hu

theorem Device.HandlerFrame.expiredCh (i : ChIdx) : dev.HandlerFrame (dev.expiredCh i) :=
  .setCh dev ⟨rfl, rfl, rfl, rfl, rfl⟩ ((Channel.Serviced.withCycle _ _).trans (.clear _))

theorem Device.HandlerFrame.expire (p : Platform) (i : ChIdx) :
    dev.HandlerFrame (commitDevice p false (dev.expiredCh i)).1 :=
  (expiredCh dev i).trans (commit _ p)

end HandlerFrame

theorem HandlerWrite.handlerFrame {p : Platform} {dev dev' : Device} (h : HandlerWrite p dev dev') :
    dev.HandlerFrame dev' := by
  cases h with
  | serve => exact .serve dev
  | count => exact .countCh dev _
  | rearm => exact .rearmCh dev _
  | expire => exact .expire dev p _

/-- A slot after a transition. -/
theorem handlerMicro_handlerFrame {s : State} {d : Nat} {dev : Device} (hd : s.dev? d = some dev) :
    ∃ dev', (handlerMicro s).dev? d = some dev' ∧ dev.HandlerFrame dev' := by
  obtain h | ⟨e, x, x', hs, hw⟩ := handlerMicro_slots s
  · exact ⟨dev, (congrArg (·[d]?) h).trans hd, .refl dev⟩
  · obtain rfl | hne := eq_or_ne d e
    · obtain rfl := Option.some.inj (hd.symm.trans hs.old)
      exact ⟨x', hs.dev?_same, hw.handlerFrame⟩
    · exact ⟨dev, (hs.dev?_ne hne).trans hd, .refl dev⟩

/-! ### The frame of a segment -/

/-- A slot after a segment. -/
theorem runSegment_handlerFrame {s : State} {d : Nat} {dev : Device} (hd : s.dev? d = some dev) :
    ∃ dev', (runSegment s).dev? d = some dev' ∧ dev.HandlerFrame dev' := by
  refine runSegment_induct (P := fun t => ∃ dev', t.dev? d = some dev' ∧ dev.HandlerFrame dev')
    (fun t ⟨x, hx, hframe⟩ => ?_) ⟨dev, hd, .refl dev⟩
  obtain ⟨y, hy, hstep⟩ := handlerMicro_handlerFrame hx
  exact ⟨y, hy, hframe.trans hstep⟩

theorem handlerMicro_inRange {s : State} (hr : s.hstate.InRange s) :
    (handlerMicro s).hstate.InRange (handlerMicro s) := by
  refine ((handlerMicro_move s).inRange hr).mono (handlerMicro_writes s).2 fun d x hx hv => ?_
  obtain ⟨y, hy, hframe⟩ := handlerMicro_handlerFrame hx
  exact ⟨y, hy, hframe.valid.trans hv, hframe.nCh⟩

/-- From a position in range a transition writes valid slots only (R101). -/
theorem HandlerMove.getElem?_of_invalid {s : State} {h : HState} {ds : List Device} (m : HandlerMove s h ds)
    (hr : s.hstate.InRange s) {d : Nat} {dev : Device} (hd : s.dev? d = some dev) (hv : dev.valid = false) :
    ds[d]? = some dev := by
  have hother {e : Nat} {x : Device} (hx : s.dev? e = some x) (hxv : x.valid = true) (y : Device) :
      (s.devices.set e y)[d]? = some dev := by
    have hne : d ≠ e := by
      rintro rfl
      obtain rfl := Option.some.inj (hd.symm.trans hx)
      simp [hv] at hxv
    exact (State.dev?_setDev_ne s hne y).trans hd
  cases m with
  | wait | finish | skip | leave | pass => exact hd
  | serve hs hx hxv => exact hother hx hxv _
  | next hs hx | call hs hx =>
    rw [hs] at hr
    obtain ⟨x', hx', hxv, -⟩ := hr
    exact hother hx' hxv _

/-- A segment leaves a slot that is not valid untouched (R101). -/
theorem runSegment_of_invalid {s : State} (hr : s.hstate.InRange s) {d : Nat} {dev : Device}
    (hd : s.dev? d = some dev) (hv : dev.valid = false) : (runSegment s).dev? d = some dev :=
  (runSegment_induct (P := fun t => t.hstate.InRange t ∧ t.dev? d = some dev)
    (fun t ⟨hr, hd⟩ => ⟨handlerMicro_inRange hr, (handlerMicro_move t).getElem?_of_invalid hr hd hv⟩) ⟨hr, hd⟩).2

/-- Settles O56: the frame of a slot over each transition, and that none writes a slot that is not valid. -/
theorem handlerSegmentFrame : Obligations.HandlerSegmentFrame := by
  intro s
  obtain ⟨hframe, hn⟩ := runSegment_writes s
  refine ⟨hframe, hn, fun d dev hd => ?_⟩
  obtain ⟨dev', hd', h⟩ := runSegment_handlerFrame hd
  refine ⟨dev', hd', h.valid, h.handle, h.chCount, h.timerClock, h.prescale, h.reload, fun hr hv => ?_, fun hu => ?_,
    fun j => ?_⟩
  · exact Option.some.inj (hd'.symm.trans (runSegment_of_invalid hr hd hv))
  · have hserv := h.settled hu
    exact ⟨hserv.pending, hserv.counter, hserv.prescaleAct, hserv.reloadAct,
      fun j => ⟨(hserv.channels j).registers, (hserv.channels j).record⟩⟩
  · have hset := h.setup j
    exact ⟨hset.cycleCount, hset.cycleCb, hset.cycleData, hset.seqCb, hset.seqData⟩

end Sys2Proof.Machine
end

section
/-! PROOFS. A transition of the handler as what it does to the slots and the port events, with the condition on `CYCLE`
under which it does it (spec/42_countdown_handler.md R104 to R106); that an unbounded sequence never ends (R110). -/

namespace Sys2Proof.Machine

/-- What a transition does beside moving the handler: nothing, or it serves a slot, or it runs a period of a channel,
which is terminal exactly where `CYCLE` is 1 (R104, R106). -/
inductive HandlerEffect (s : State) : State → Prop
  | move (h : HState) : HandlerEffect s (s.goto h)
  | serve {d : Nat} {dev : Device} (hd : s.dev? d = some dev) (h : HState) :
      HandlerEffect s ((s.setDev d { dev with pending := false }).goto h)
  | count {d : Nat} {dev : Device} {k : ChIdx} (hd : s.dev? d = some dev) (h : HState) :
      HandlerEffect s ((s.setDev d (dev.countCh k)).goto h)
  | callCycle {d : Nat} {dev : Device} {k : ChIdx} (hd : s.dev? d = some dev) (handle data : Word) :
      HandlerEffect s (presentCallback .cycle d k.val handle data (s.setDev d (dev.countCh k)))
  | expire {d : Nat} {dev : Device} {k : ChIdx} (hd : s.dev? d = some dev) (hc : (dev.ch k).cycle = 1) (h : HState) :
      HandlerEffect s ((disableChannel d k (s.setDev d (dev.rearmCh k))).2.goto h)
  | callSeq {d : Nat} {dev : Device} {k : ChIdx} (hd : s.dev? d = some dev) (hc : (dev.ch k).cycle = 1)
      (handle data : Word) : HandlerEffect s (presentCallback .seq d k.val handle data (s.setDev d (dev.rearmCh k)))

/-- A transition from `CHAN(d, k)` of a channel that exists. -/
theorem handlerMicro_chan_effect {s : State} {d : Nat} {k : ChIdx} {dev : Device} (hs : s.hstate = .chan d k.val)
    (hd : s.dev? d = some dev) (hk : k.val < dev.nCh) : HandlerEffect s (handlerMicro s) := by
  cases he : (dev.ch k).cfg.enabled with
  | false =>
    rw [handlerMicro_pass hs hd hk he]
    exact .move _
  | true =>
    by_cases hc : (dev.ch k).cycle = 1
    · by_cases hcb : (dev.ch k).seqCb = 0
      · rw [handlerMicro_expire hs hd hk he hc hcb]
        exact .expire hd hc _
      · rw [handlerMicro_callSeq hs hd hk he hc hcb]
        exact .callSeq hd hc _ _
    · by_cases hcb : (dev.ch k).cycleCb = 0
      · rw [handlerMicro_count hs hd hk he hc hcb]
        exact .count hd _
      · rw [handlerMicro_callCycle hs hd hk he hc hcb]
        exact .callCycle hd _ _

theorem handlerMicro_effect (s : State) : HandlerEffect s (handlerMicro s) := by
  cases hs : s.hstate with
  | idle | cb =>
    have hwait : handlerMicro s = s := by simp only [handlerMicro, hs]
    rw [hwait]
    exact .move s.hstate
  | scan d =>
    cases hd : s.dev? d with
    | none =>
      rw [handlerMicro_return hs hd]
      exact .move _
    | some dev =>
      cases hr : dev.requests with
      | false =>
        rw [handlerMicro_skip hs hd hr]
        exact .move _
      | true =>
        rw [handlerMicro_serve hs hd hr]
        exact .serve hd _
  | chan d j =>
    by_cases hj : ∀ dev, s.dev? d = some dev → dev.nCh ≤ j
    · rw [handlerMicro_leave hs hj]
      exact .move _
    · simp only [not_forall, Nat.not_le] at hj
      obtain ⟨dev, hd, hlt⟩ := hj
      obtain ⟨k, rfl⟩ : ∃ k : ChIdx, k.val = j := ⟨⟨j, hlt.trans_le dev.nCh_le⟩, rfl⟩
      exact handlerMicro_chan_effect hs hd hlt

/-! ### An unbounded sequence -/

/-- The channel is enabled with `CYCLE_COUNT` at `n` and `CYCLE` at `x`. -/
structure Channel.Counting (n x : Word) (c : Channel) : Prop where
  enabled : c.cfg.enabled = true
  cycleCount : c.cycleCount = n
  cycle : c.cycle = x

section Counting

variable {dev : Device} {i k : ChIdx} {n x : Word}

theorem Channel.Counting.withCycle {c : Channel} (h : c.Counting n x) (y : Word) : (c.withCycle y).Counting n y :=
  ⟨h.enabled, h.cycleCount, rfl⟩

variable (h : (dev.ch i).Counting n x)
include h

theorem Channel.Counting.setCh_ne (hk : k ≠ i) (c : Channel) : ((dev.setCh k c).ch i).Counting n x := by
  rwa [Device.ch_setCh_ne _ hk.symm]

/-- COMMIT neither enables a channel nor counts (spec/41_commit_engine.md R91 to R95). -/
theorem Channel.Counting.commit (p : Platform) (u : Bool) : ((commitDevice p u dev).1.ch i).Counting n x :=
  ⟨(commitDevice_enabled p u dev i).trans h.enabled, (commitDevice_sameSetup p u dev i).cycleCount.trans h.cycleCount,
    (commitDevice_cycle p u dev i).trans h.cycle⟩

theorem Channel.Counting.countCh_same : ((dev.countCh i).ch i).Counting n (countDown x) := by
  rw [Device.ch_countCh_same, h.cycle]
  exact h.withCycle _

theorem Channel.Counting.countCh_ne (hk : k ≠ i) : ((dev.countCh k).ch i).Counting n x := h.setCh_ne hk _

theorem Channel.Counting.expire_ne (hk : k ≠ i) (p : Platform) :
    ((commitDevice p false (dev.expiredCh k)).1.ch i).Counting n x := by
  refine Channel.Counting.commit ?_ p false
  exact h.setCh_ne hk _

end Counting

/-- A channel at `CYCLE == 0` is left there by the period of any channel that is not terminal (R106). -/
theorem Channel.Counting.countCh_zero {dev : Device} {i : ChIdx} {n : Word} (h : (dev.ch i).Counting n 0) (k : ChIdx) :
    ((dev.countCh k).ch i).Counting n 0 := by
  obtain rfl | hk := eq_or_ne k i
  · exact h.countCh_same
  · exact h.countCh_ne hk

/-- Channel `i` of slot `d` is enabled at `CYCLE == 0` with `CYCLE_COUNT` at `n`, and of the port events after `start`
none is a sequence callback for it. -/
structure State.Unending (s : State) (d : Nat) (i : ChIdx) (n : Word) (start : List Output) : Prop where
  slot : ∃ dev, s.dev? d = some dev ∧ (dev.ch i).Counting n 0
  events : ∃ l, s.outputs = start ++ l ∧ ∀ handle data, .callback .seq d i.val handle data ∉ l

section Unending

variable {s t : State} {d : Nat} {i : ChIdx} {n : Word} {start : List Output} (h : s.Unending d i n start)
include h

/-- A write of one slot with its port events. -/
theorem State.Unending.write {e : Nat} {dev dev' : Device} (hw : s.SlotWritten t e dev dev')
    (hkeep : e = d → (dev.ch i).Counting n 0 → (dev'.ch i).Counting n 0) {l : List Output}
    (hout : t.outputs = s.outputs ++ l) (hl : ∀ handle data, .callback .seq d i.val handle data ∉ l) :
    t.Unending d i n start := by
  obtain ⟨⟨x, hx, hcount⟩, l₀, hl₀, hnone⟩ := h
  refine ⟨?_, l₀ ++ l, by rw [hout, hl₀, List.append_assoc], fun handle data => ?_⟩
  · obtain rfl | hne := eq_or_ne e d
    · obtain rfl := Option.some.inj (hw.old.symm.trans hx)
      exact ⟨dev', hw.dev?_same, hkeep rfl hcount⟩
    · exact ⟨x, (hw.dev?_ne hne.symm).trans hx, hcount⟩
  · rw [List.mem_append, not_or]
    exact ⟨hnone handle data, hl handle data⟩

/-- A terminal period is of another channel: this one has `CYCLE` at 0. -/
theorem State.Unending.ne_of_terminal {e : Nat} {dev : Device} {k : ChIdx} (he : s.dev? e = some dev)
    (hc : (dev.ch k).cycle = 1) (hed : e = d) : k ≠ i := by
  rintro rfl
  obtain ⟨x, hx, hcount⟩ := h.slot
  subst e
  obtain rfl := Option.some.inj (he.symm.trans hx)
  rw [hcount.cycle] at hc
  cases hc

theorem State.Unending.effect (heff : HandlerEffect s t) : t.Unending d i n start := by
  cases heff with
  | move => exact ⟨h.slot, h.events⟩
  | serve hd =>
    exact h.write (l := []) ⟨hd, rfl⟩ (fun _ hcount => hcount) (List.append_nil _).symm (by simp)
  | @count _ _ k hd =>
    exact h.write (l := []) ⟨hd, rfl⟩ (fun _ hcount => hcount.countCh_zero k) (List.append_nil _).symm (by simp)
  | @callCycle _ _ k hd =>
    exact h.write ⟨hd, rfl⟩ (fun _ hcount => hcount.countCh_zero k) rfl (by simp)
  | @expire _ _ k hd hc =>
    exact h.write ⟨hd, expire_devices k hd⟩ (fun he hcount => hcount.expire_ne (h.ne_of_terminal hd hc he) _)
      ((expire_outputs k hd).trans (List.append_assoc _ _ _)) (expire_no_callback _ _ _ _ _ _ _)
  | @callSeq _ _ k hd hc =>
    refine h.write ⟨hd, rfl⟩ (fun he hcount => hcount.setCh_ne (h.ne_of_terminal hd hc he) _) rfl fun handle data => ?_
    rw [List.mem_singleton]
    intro hev
    injection hev with _ he hk
    exact h.ne_of_terminal hd hc he.symm (Fin.ext hk.symm)

end Unending

/-- Settles O55: no transition makes a period of this channel terminal. -/
theorem unboundedSequenceNeverEnds : Obligations.UnboundedSequenceNeverEnds := by
  intro s d dev i hd he hc
  have hstart : s.Unending d i (dev.ch i).cycleCount s.outputs :=
    ⟨⟨dev, hd, he, rfl, hc⟩, [], (List.append_nil _).symm, by simp⟩
  obtain ⟨⟨dev', hd', hcount⟩, l, hl, hnone⟩ := runSegment_induct
    (P := fun t => t.Unending d i (dev.ch i).cycleCount s.outputs) (fun t ht => ht.effect (handlerMicro_effect t)) hstart
  refine ⟨dev', hd', hcount.enabled, hcount.cycle, hcount.cycleCount, ?_⟩
  rwa [hl, List.drop_left]

end Sys2Proof.Machine
end

section
/-! PROOFS. The handler against the nested loops of IRQ_HANDLER (spec/42_countdown_handler.md R100): the loops slot by
slot, and that with no callback registered a segment from `SCAN(0)` runs them to the end. -/

namespace Sys2Proof.Machine

/-! ### The loops on a slot -/

/-- The body of the channel loop on the slot, where no callback is registered (R103 to R106). -/
def Device.period (p : Platform) (dev : Device) (i : ChIdx) : Device :=
  if (dev.ch i).cfg.enabled then
    if (dev.ch i).cycle = 1 then (commitDevice p false (dev.expiredCh i)).1 else dev.countCh i
  else dev

/-- The body of the device loop on the slot (R101, R102). -/
def Device.served (p : Platform) (dev : Device) : Device :=
  if dev.requests then dev.indices.foldl (Device.period p) { dev with pending := false } else dev

theorem Device.HandlerFrame.period (p : Platform) (dev : Device) (i : ChIdx) :
    dev.HandlerFrame (dev.period p i) := by
  unfold Device.period
  split
  · split
    · exact .expire dev p i
    · exact .countCh dev i
  · exact .refl dev

theorem Device.HandlerFrame.foldl_period (p : Platform) (dev : Device) (l : List ChIdx) :
    dev.HandlerFrame (l.foldl (Device.period p) dev) :=
  l.foldlRecOn (motive := dev.HandlerFrame) (Device.period p) (.refl dev) fun x hx i _ => hx.trans (.period p x i)

theorem Device.HandlerFrame.served (p : Platform) (dev : Device) : dev.HandlerFrame (dev.served p) := by
  unfold Device.served
  split
  · exact (Device.HandlerFrame.serve dev).trans (.foldl_period p _ _)
  · exact .refl dev

/-! ### The channel loop -/

theorem State.SlotWritten.trans {s t u : State} {d : Nat} {a b b' c : Device} (h : s.SlotWritten t d a b)
    (k : t.SlotWritten u d b' c) : s.SlotWritten u d a c :=
  ⟨h.old, by rw [k.devices, h.devices, List.set_set]⟩

section Loop

variable {s : State} {d : Nat} {dev : Device} (hd : s.dev? d = some dev)
include hd

theorem loopChannel_eq (i : ChIdx) : loopChannel d s i =
    if (dev.ch i).cfg.enabled then
      if (dev.ch i).cycle = 1 then (disableChannel d i (s.setDev d (dev.rearmCh i))).2 else s.setDev d (dev.countCh i)
    else s := by
  simp only [loopChannel, hd, ← countDown_eq]
  rfl

theorem loopChannel_slotWritten (i : ChIdx) : s.SlotWritten (loopChannel d s i) d dev (dev.period s.plat i) := by
  refine ⟨hd, ?_⟩
  rw [loopChannel_eq hd, Device.period]
  split
  · split
    · exact expire_devices i hd
    · rfl
  · exact congrArg State.devices (State.setDev_self hd).symm

theorem loopChannel_writes (i : ChIdx) : s.HandlerWrites (loopChannel d s i) := by
  rw [loopChannel_eq hd]
  split
  · split
    · exact (handlerWrites_setDev _ _ _).trans (handlerWrites_disable _ _ _)
    · exact handlerWrites_setDev _ _ _
  · exact .refl s

/-- The channel loop on the state is the channel loop on the slot. -/
theorem foldl_loopChannel (l : List ChIdx) :
    s.SlotWritten (l.foldl (loopChannel d) s) d dev (l.foldl (Device.period s.plat) dev) ∧
      s.HandlerWrites (l.foldl (loopChannel d) s) := by
  induction l generalizing s dev with
  | nil => exact ⟨⟨hd, congrArg State.devices (State.setDev_self hd).symm⟩, .refl s⟩
  | cons i l ih =>
    have hslot := loopChannel_slotWritten hd i
    have hw := loopChannel_writes hd i
    have hplat : (loopChannel d s i).plat = s.plat := by rw [hw.1]
    obtain ⟨hslot', hw'⟩ := ih hslot.dev?_same
    rw [hplat] at hslot'
    exact ⟨hslot.trans hslot', hw.trans hw'⟩

theorem loopDevice_eq : loopDevice s d =
    if dev.requests then dev.indices.foldl (loopChannel d) (s.setDev d { dev with pending := false }) else s := by
  simp only [loopDevice, hd]
  rfl

/-- The device loop's body on the state is its body on the slot. -/
theorem loopDevice_slotWritten :
    s.SlotWritten (loopDevice s d) d dev (dev.served s.plat) ∧ s.HandlerWrites (loopDevice s d) := by
  rw [loopDevice_eq hd, Device.served]
  split
  · obtain ⟨hslot, hw⟩ := foldl_loopChannel (State.dev?_setDev_same hd { dev with pending := false }) dev.indices
    exact ⟨State.SlotWritten.trans ⟨hd, rfl⟩ hslot, (handlerWrites_setDev _ _ _).trans hw⟩
  · exact ⟨⟨hd, congrArg State.devices (State.setDev_self hd).symm⟩, .refl s⟩

end Loop

/-! ### The position of the handler plays no part in the loops -/

section Goto

variable (s : State) (h : HState) (d : Nat)

theorem drawPin_goto : drawPin (s.goto h) = ((drawPin s).1, (drawPin s).2.goto h) := by
  simp only [drawPin, State.goto_pinAnswers]
  split <;> rfl

theorem unassignPin_goto (pin : Byte) :
    unassignPin pin (s.goto h) = ((unassignPin pin s).1, (unassignPin pin s).2.goto h) := by
  unfold unassignPin
  split
  · rfl
  · rw [drawPin_goto]
    rfl

theorem commit_goto (u : Bool) : commit d u (s.goto h) = (commit d u s).goto h := by
  cases hd : s.dev? d with
  | none => rw [commit_none u hd, commit_none (s := s.goto h) u hd]
  | some dev =>
    rw [commit_eq u hd, commit_eq (s := s.goto h) u hd]
    rfl

theorem disableChannel_goto (i : ChIdx) : (disableChannel d i (s.goto h)).2 = (disableChannel d i s).2.goto h := by
  cases hd : s.dev? d with
  | none => rw [disableChannel_none i hd, disableChannel_none (s := s.goto h) i hd]
  | some dev =>
    rw [disableChannel_eq i hd, disableChannel_eq (s := s.goto h) i hd, unassignPin_goto]
    exact commit_goto ((unassignPin (dev.ch i).cfg.pin s).2.setDev d (dev.setCh i (dev.ch i).clear)) h d false

theorem loopChannel_goto (i : ChIdx) : loopChannel d (s.goto h) i = (loopChannel d s i).goto h := by
  cases hd : s.dev? d with
  | none => simp only [loopChannel, hd, State.dev?_goto]
  | some dev =>
    rw [loopChannel_eq hd, loopChannel_eq (s := s.goto h) hd]
    split
    · split
      · exact disableChannel_goto (s.setDev d (dev.rearmCh i)) h d i
      · rfl
    · rfl

theorem loopDevice_goto : loopDevice (s.goto h) d = (loopDevice s d).goto h := by
  cases hd : s.dev? d with
  | none => simp only [loopDevice, hd, State.dev?_goto]
  | some dev =>
    rw [loopDevice_eq hd, loopDevice_eq (s := s.goto h) hd]
    split
    · exact List.foldl_hom (State.goto · h) (init := s.setDev d { dev with pending := false }) fun t i =>
        loopChannel_goto t h d i
    · rfl

theorem loopHandler_goto : loopHandler (s.goto h) = (loopHandler s).goto h :=
  List.foldl_hom (State.goto · h) (l := List.range s.nDev) fun t d => loopDevice_goto t h d

end Goto

/-! ### No callback -/

/-- Transitions of the handler register no callback (R101 to R106). -/
theorem State.NoCallbacks.slotWritten {s t : State} {d : Nat} {dev dev' : Device} (h : s.NoCallbacks)
    (hw : s.SlotWritten t d dev dev') (hset : ∀ i : ChIdx, (dev.ch i).SameSetup (dev'.ch i)) : t.NoCallbacks := by
  intro x hx i
  rw [hw.devices] at hx
  obtain hx | rfl := List.mem_or_eq_of_mem_set hx
  · exact h x hx i
  · rw [(hset i).cycleCb, (hset i).seqCb]
    exact h dev (State.mem_of_dev? hw.old) i

section NoCallbacks

variable {s : State} (hno : s.NoCallbacks) {d : Nat}
include hno

/-- A transition from `CHAN(d, i)` is the body of the channel loop (R103 to R106). -/
theorem handlerMicro_loopChannel {i : ChIdx} {dev : Device} (hs : s.hstate = .chan d i.val)
    (hd : s.dev? d = some dev) (hi : i.val < dev.nCh) :
    handlerMicro s = (loopChannel d s i).goto (.chan d (i.val + 1)) := by
  obtain ⟨hcycle, hseq⟩ := hno dev (State.mem_of_dev? hd) i
  rw [loopChannel_eq hd]
  split
  · next he =>
    split
    · next hc => exact handlerMicro_expire hs hd hi he hc hseq
    · next hc => exact handlerMicro_count hs hd hi he hc hcycle
  · next he => exact handlerMicro_pass hs hd hi (Bool.eq_false_of_not_eq_true he)

theorem State.NoCallbacks.loopDevice (hd : d < s.nDev) : (loopDevice s d).NoCallbacks := by
  obtain ⟨dev, hd⟩ := State.dev?_of_lt hd
  exact hno.slotWritten (loopDevice_slotWritten hd).1 (Device.HandlerFrame.served s.plat dev).setup

end NoCallbacks

/-! ### A segment runs the loops -/

/-- More fuel changes nothing once the handler waits. -/
theorem runHandler_succ_of_waits (n : Nat) {s : State} (h : (runHandler n s).hstate.working = false) :
    runHandler (n + 1) s = runHandler n s := by
  induction n generalizing s with
  | zero => exact runHandler_of_waiting 1 h
  | succ n ih =>
    cases hw : s.hstate.working with
    | false => rw [runHandler_of_waiting _ hw, runHandler_of_waiting _ hw]
    | true =>
      rw [runHandler_succ n hw] at h
      rw [runHandler_succ _ hw, runHandler_succ _ hw, ih h]

/-- A segment begins with the handler's next transition (R113). -/
theorem runSegment_of_working {s : State} (hw : s.hstate.working = true) :
    runSegment s = runSegment (handlerMicro s) := by
  have hfuel : segmentFuel (handlerMicro s) = segmentFuel s := by
    rw [segmentFuel, segmentFuel, (handlerMicro_writes s).2]
  rw [runSegment, runSegment, hfuel, ← runHandler_succ _ hw]
  exact (runHandler_succ_of_waits _ (runSegment_waits s)).symm

theorem Device.indices_val (dev : Device) : dev.indices.map Fin.val = List.range' 0 dev.nCh := by
  unfold Device.indices Device.nCh
  cases dev.chCount <;> rfl

section RunLoops

variable {s : State} (hno : s.NoCallbacks) {d : Nat}
include hno

/-- From `CHAN(d, j)` a segment runs the channel loop on the channels `l` from `j` on, and scans on (R103). -/
theorem runSegment_chan (l : List ChIdx) {j : Nat} {dev : Device} (hd : s.dev? d = some dev)
    (hl : l.map Fin.val = List.range' j (dev.nCh - j)) :
    runSegment (s.goto (.chan d j)) = runSegment ((l.foldl (loopChannel d) s).goto (.scan (d + 1))) := by
  rw [runSegment_of_working rfl]
  induction l generalizing s j dev with
  | nil =>
    have hj : dev.nCh ≤ j := Nat.le_of_sub_eq_zero (List.range'_eq_nil_iff.mp hl.symm)
    rw [handlerMicro_leave (s := s.goto (.chan d j)) rfl fun x hx => by
      obtain rfl := Option.some.inj (hd.symm.trans hx)
      exact hj]
    rfl
  | cons i l ih =>
    obtain ⟨rfl, hi, hl⟩ := List.range'_eq_cons_iff.mp hl.symm
    have hslot := loopChannel_slotWritten hd i
    have hframe := Device.HandlerFrame.period s.plat dev i
    rw [handlerMicro_loopChannel (s := s.goto (.chan d i.val)) hno rfl hd (Nat.lt_of_sub_pos hi), loopChannel_goto,
      List.foldl_cons, ← ih (hno.slotWritten hslot hframe.setup) hslot.dev?_same (by rw [hframe.nCh, hl]; rfl)]
    exact runSegment_of_working rfl

/-- From `SCAN(d)` a segment runs the body of the device loop, and scans on (R101). -/
theorem runSegment_scan_lt (hd : d < s.nDev) :
    runSegment (s.goto (.scan d)) = runSegment ((loopDevice s d).goto (.scan (d + 1))) := by
  obtain ⟨dev, hd⟩ := State.dev?_of_lt hd
  rw [runSegment_of_working rfl, loopDevice_eq hd]
  split
  · next hr =>
    rw [handlerMicro_serve (s := s.goto (.scan d)) rfl hd hr]
    refine runSegment_chan (s := s.setDev d { dev with pending := false }) ?_ dev.indices
      (State.dev?_setDev_same hd _) dev.indices_val
    exact hno.slotWritten ⟨hd, rfl⟩ (Device.HandlerFrame.serve dev).setup
  · next hr =>
    rw [handlerMicro_skip (s := s.goto (.scan d)) rfl hd (Bool.eq_false_of_not_eq_true hr)]
    rfl

/-- From `SCAN(d)` a segment runs the device loop on the slots `l` from `d` on, and returns (R100, R101). -/
theorem runSegment_scan (l : List Nat) (hl : List.range' d (s.nDev - d) = l) :
    runSegment (s.goto (.scan d)) = (l.foldl loopDevice s).goto .idle := by
  induction l generalizing s d with
  | nil =>
    have hd : s.dev? d = none := State.dev?_none_iff.mpr (Nat.le_of_sub_eq_zero (List.range'_eq_nil_iff.mp hl))
    rw [runSegment_of_working rfl, handlerMicro_return (s := s.goto (.scan d)) rfl hd]
    exact runHandler_of_waiting _ rfl
  | cons e l ih =>
    obtain ⟨rfl, hd, rfl⟩ := List.range'_eq_cons_iff.mp hl
    have hd : d < s.nDev := Nat.lt_of_sub_pos hd
    obtain ⟨dev, hdev⟩ := State.dev?_of_lt hd
    rw [runSegment_scan_lt hno hd, List.foldl_cons]
    exact ih (hno.loopDevice hd) (by rw [(loopDevice_slotWritten hdev).1.nDev_eq]; rfl)

end RunLoops

theorem State.goto_self {s : State} {h : HState} (hs : s.hstate = h) : s.goto h = s := by
  rw [← hs]
  rfl

/-- The loops leave the handler where it stands, which here is `IDLE`. -/
theorem loopHandler_goto_idle {s : State} (hs : s.hstate = .idle) : (loopHandler s).goto .idle = loopHandler s := by
  rw [← loopHandler_goto, State.goto_self hs]

/-- Settles O53: the segment from `SCAN(0)` runs the device loop on every slot. -/
theorem invocationIsTheNestedLoops : Obligations.InvocationIsTheNestedLoops := by
  intro s rest hs hr hno hi
  have hw : s.hstate.working = false := by rw [hs]; rfl
  have hbegin : beginInvocation s.irqRequest { s with inputs := rest } =
      .next (runSegment (takeInterrupt { s with inputs := rest })) := if_pos ⟨hs, hr⟩
  have hloops := runSegment_scan (s := { s with inputs := rest }) (d := 0) hno (List.range s.nDev)
    List.range_eq_range'.symm
  have hstay := loopHandler_goto_idle (s := { s with inputs := rest }) hs
  rw [step_of_input hw hi, ← hstay]
  exact hbegin.trans (congrArg _ hloops)

end Sys2Proof.Machine
end

section
/-! PROOFS. Bounded sequences (spec/42_countdown_handler.md R109): what one served event makes of a counting channel, and
by induction what `k` of them make. -/

namespace Sys2Proof.Machine

/-- What holds until the one visit of `a`, holds after it in its new form. -/
theorem foldl_of_visit {α β : Type} {f : β → α → β} {l : List α} {a : α} {P Q : β → Prop} (hl : l.Nodup) (ha : a ∈ l)
    (hbefore : ∀ b x, x ≠ a → P b → P (f b x)) (hvisit : ∀ b, P b → Q (f b a))
    (hafter : ∀ b x, x ≠ a → Q b → Q (f b x)) {b : β} (hb : P b) : Q (l.foldl f b) := by
  obtain ⟨l₁, l₂, rfl⟩ := List.append_of_mem ha
  have hnot : a ∉ l₁ ++ l₂ := (List.nodup_cons.mp (List.nodup_middle.mp hl)).1
  rw [List.mem_append, not_or] at hnot
  rw [List.foldl_append, List.foldl_cons]
  have h₁ : P (l₁.foldl f b) := l₁.foldlRecOn f hb fun b hb x hx => hbefore b x (ne_of_mem_of_not_mem hx hnot.1) hb
  exact l₂.foldlRecOn f (hvisit _ h₁) fun b hb x hx => hafter b x (ne_of_mem_of_not_mem hx hnot.2) hb

/-! ### A counting channel -/

/-- Channel `i` of a slot that runs counts towards the end of its sequence of `n` periods, with `CYCLE` at `x`. -/
structure Device.Counting (i : ChIdx) (n x : Word) (dev : Device) : Prop where
  valid : dev.valid = true
  running : dev.counterEn = true
  present : i.val < dev.nCh
  channel : (dev.ch i).Counting n x

/-- Channel `i` is disabled, its output is off, and `CYCLE` is re-armed to `n` (R104, R105). -/
structure Device.Ended (i : ChIdx) (n : Word) (dev : Device) : Prop where
  record : (dev.ch i).chcfg = Config.sentinel
  output : (dev.ch i).chOutEn = false
  cycle : (dev.ch i).cycle = n

section Counting

variable {dev : Device} {i j : ChIdx} {n x : Word} (p : Platform)

/-- The commit of another channel's automatic disable finds this channel enabled, so it stops no counter
(spec/41_commit_engine.md R95). -/
theorem Device.Counting.expire_ne (h : dev.Counting i n x) (hj : j ≠ i) :
    (commitDevice p false (dev.expiredCh j)).1.Counting i n x := by
  have hcounted : countsRecord p.countRule ((dev.expiredCh j).ch i) = true :=
    Channel.counted_of_enabled (h.channel.setCh_ne hj _).enabled _
  have hframe := Device.HandlerFrame.expire dev p j
  refine ⟨hframe.valid.trans h.valid, ?_, h.present.trans_eq hframe.nCh.symm, h.channel.expire_ne hj p⟩
  obtain hkept | hrun := commitDevice_counter_of_counted p false (dev := dev.expiredCh j) h.present hcounted
  · exact hkept.trans h.running
  · exact hrun

theorem Device.Counting.period_ne (h : dev.Counting i n x) (hj : j ≠ i) : (dev.period p j).Counting i n x := by
  unfold Device.period
  split
  · split
    · exact h.expire_ne p hj
    · exact ⟨h.valid, h.running, h.present, h.channel.countCh_ne hj⟩
  · exact h

/-- A non-terminal period counts down (R106). -/
theorem Device.Counting.period_same (h : dev.Counting i n x) (hx : x ≠ 1) :
    (dev.period p i).Counting i n (countDown x) := by
  rw [Device.period, if_pos h.channel.enabled, if_neg (h.channel.cycle ▸ hx)]
  exact ⟨h.valid, h.running, h.present, h.channel.countCh_same⟩

/-- A terminal period ends the sequence (R104, R105). -/
theorem Device.Counting.period_last (h : dev.Counting i n 1) : (dev.period p i).Ended i n := by
  have hch := commitDevice_expiredCh_same dev i p
  dsimp only at hch
  rw [Device.period, if_pos h.channel.enabled, if_pos h.channel.cycle]
  refine ⟨?_, ?_, ?_⟩ <;> rw [hch]
  · rfl
  · rfl
  · exact h.channel.cycleCount

/-- A disabled record is written by no period of another channel. -/
theorem Device.Ended.period_ne (h : dev.Ended i n) (hj : j ≠ i) : (dev.period p j).Ended i n := by
  have hset (c : Channel) : (dev.setCh j c).ch i = dev.ch i := Device.ch_setCh_ne _ hj.symm _
  unfold Device.period
  split
  · split
    · have hnot : ((dev.expiredCh j).ch i).selected false = false := by
        rw [Device.expiredCh, hset]
        exact Channel.selected_of_sentinel h.record false
      have hch := commitDevice_ch_of_not_selected p false hnot
      rw [Device.expiredCh, hset] at hch
      refine ⟨?_, ?_, ?_⟩ <;> rw [Device.expiredCh, hch]
      · exact h.record
      · exact h.output
      · exact h.cycle
    · refine ⟨?_, ?_, ?_⟩ <;> rw [Device.countCh, hset]
      · exact h.record
      · exact h.output
      · exact h.cycle
  · exact h

/-- A period-elapsed event leaves the countdown alone (spec/20_memory.md R48). -/
theorem Device.Counting.periodElapsed (h : dev.Counting i n x) : dev.periodElapsed.Counting i n x := by
  refine ⟨h.valid, h.running, h.present, ?_⟩
  rw [Device.ch_periodElapsed]
  exact ⟨h.channel.enabled, h.channel.cycleCount, h.channel.cycle⟩

theorem Device.Counting.requests_periodElapsed (h : dev.Counting i n x) : dev.periodElapsed.requests = true := by
  rw [Device.requests, Device.periodElapsed_valid, h.valid]
  rfl

/-- The service of an event runs one period of the channel: it counts down where `CYCLE` is not 1 (R106). -/
theorem Device.Counting.served (h : dev.Counting i n x) (hx : x ≠ 1) :
    (dev.periodElapsed.served p).Counting i n (countDown x) := by
  have hstart := h.periodElapsed
  rw [Device.served, if_pos h.requests_periodElapsed]
  refine foldl_of_visit (P := Device.Counting i n x) (Device.indices_nodup _) (Device.mem_indices.mpr hstart.present)
    (fun _ _ hj hb => hb.period_ne p hj) (fun _ hb => hb.period_same p hx) (fun _ _ hj hb => hb.period_ne p hj) ?_
  exact ⟨hstart.valid, hstart.running, hstart.present, hstart.channel⟩

/-- The service of an event ends the sequence where `CYCLE` is 1 (R104, R105). -/
theorem Device.Counting.served_last (h : dev.Counting i n 1) : (dev.periodElapsed.served p).Ended i n := by
  have hstart := h.periodElapsed
  rw [Device.served, if_pos h.requests_periodElapsed]
  refine foldl_of_visit (P := Device.Counting i n 1) (Device.indices_nodup _) (Device.mem_indices.mpr hstart.present)
    (fun _ _ hj hb => hb.period_ne p hj) (fun _ hb => hb.period_last p) (fun _ _ hj hb => hb.period_ne p hj) ?_
  exact ⟨hstart.valid, hstart.running, hstart.present, hstart.channel⟩

end Counting

/-! ### The device loop on one slot -/

section LoopHandler

variable (s : State) {d : Nat}

theorem loopDevice_writes (d : Nat) : s.HandlerWrites (loopDevice s d) := by
  cases hd : s.dev? d with
  | none =>
    simp only [loopDevice, hd]
    exact .refl s
  | some dev => exact (loopDevice_slotWritten hd).2

theorem loopDevice_dev?_ne {e : Nat} (he : e ≠ d) : (loopDevice s e).dev? d = s.dev? d := by
  cases hd : s.dev? e with
  | none => simp only [loopDevice, hd]
  | some dev => exact (loopDevice_slotWritten hd).1.dev?_ne he.symm

theorem loopHandler_writes : s.HandlerWrites (loopHandler s) :=
  (List.range s.nDev).foldlRecOn loopDevice (.refl s) fun t ht d _ => ht.trans (loopDevice_writes t d)

variable {s}

/-- An invocation serves each slot once (R101). -/
theorem loopHandler_dev? {dev : Device} (hd : s.dev? d = some dev) :
    (loopHandler s).dev? d = some (dev.served s.plat) := by
  have hothers (x : Device) (t : State) (e : Nat) (he : e ≠ d) :
      t.plat = s.plat ∧ t.dev? d = some x → (loopDevice t e).plat = s.plat ∧ (loopDevice t e).dev? d = some x := by
    rintro ⟨hplat, hx⟩
    refine ⟨?_, (loopDevice_dev?_ne t he).trans hx⟩
    rw [(loopDevice_writes t e).1, hplat]
  refine (foldl_of_visit (P := fun t : State => t.plat = s.plat ∧ t.dev? d = some dev)
    (Q := fun t : State => t.plat = s.plat ∧ t.dev? d = some (dev.served s.plat)) List.nodup_range
    (List.mem_range.mpr (State.dev?_lt hd)) (hothers dev) (fun t ⟨hplat, hx⟩ => ?_) (hothers _) ⟨rfl, hd⟩).2
  obtain ⟨hslot, hw⟩ := loopDevice_slotWritten hx
  rw [← hplat]
  exact ⟨by rw [hw.1], hslot.dev?_same⟩

theorem State.NoCallbacks.loopHandler (hno : s.NoCallbacks) : (loopHandler s).NoCallbacks := by
  refine ((List.range s.nDev).foldlRecOn (motive := fun t : State => t.NoCallbacks ∧ t.nDev = s.nDev)
    Machine.loopDevice ⟨hno, rfl⟩ fun t ⟨ht, hn⟩ d hd => ?_).1
  exact ⟨ht.loopDevice ((List.mem_range.mp hd).trans_eq hn.symm), (loopDevice_writes t d).2.trans hn⟩

end LoopHandler

/-! ### Served events -/

theorem core_run_succ {s t : State} (h : step s = .next t) (n : Nat) :
    Sys2Proof.core.run (n + 1) s = Sys2Proof.core.run n t := by
  have hcore : Sys2Proof.core.step s = .next t := h
  simp only [Host.Core.run, hcore]

/-- In the foreground, with the vector enabled and no callback registered. -/
structure State.AwaitsEvent (s : State) : Prop where
  idle : s.hstate = .idle
  vector : s.irqEn = true
  silent : s.NoCallbacks

section AwaitsEvent

variable {s : State} (h : s.AwaitsEvent) {d : Nat} {dev : Device} (hd : s.dev? d = some dev) {rest : List Input}
include h hd

theorem State.AwaitsEvent.setDev_periodElapsed :
    State.AwaitsEvent ({ s with inputs := rest }.setDev d dev.periodElapsed) := by
  refine ⟨h.idle, h.vector, h.silent.slotWritten ⟨hd, rfl⟩ fun i => ?_⟩
  rw [Device.ch_periodElapsed]
  exact ⟨rfl, rfl, rfl, rfl, rfl⟩

/-- The event is one step (spec/20_memory.md R48). -/
theorem State.AwaitsEvent.step_event (hr : dev.running = true) (hi : s.inputs = .periodElapsed d :: rest) :
    step s = .next ({ s with inputs := rest }.setDev d dev.periodElapsed) := by
  have hw : s.hstate.working = false := by rw [h.idle]; rfl
  rw [step_of_input hw hi]
  exact periodEvent_of_running (s := { s with inputs := rest }) hd hr

/-- The invocation is one step, which serves the slot (R100). -/
theorem State.AwaitsEvent.step_interrupt (hr : dev.requests = true) (hi : s.inputs = .interrupt :: rest) :
    ∃ t : State, step s = .next t ∧ t.AwaitsEvent ∧ t.inputs = rest ∧ t.dev? d = some (dev.served s.plat) := by
  have hrequest : s.irqRequest = true := by
    rw [Device.requests, Bool.and_eq_true] at hr
    exact irqRequest_eq_true.mpr ⟨h.vector, dev, State.mem_of_dev? hd, hr⟩
  have hwrites := (loopHandler_writes { s with inputs := rest }).1
  refine ⟨_, invocationIsTheNestedLoops s rest h.idle hrequest h.silent hi, ⟨?_, ?_, ?_⟩, ?_, ?_⟩
  · rw [← loopHandler_goto_idle (s := { s with inputs := rest }) h.idle]
    rfl
  · rw [hwrites]
    exact h.vector
  · exact State.NoCallbacks.loopHandler (s := { s with inputs := rest }) h.silent
  · rw [hwrites]
  · exact loopHandler_dev? (s := { s with inputs := rest }) hd

/-- An event and the invocation that serves it are two steps (R109). -/
theorem State.AwaitsEvent.run_served {i : ChIdx} {n x : Word} (hcount : dev.Counting i n x)
    (hi : s.inputs = .periodElapsed d :: .interrupt :: rest) :
    ∃ t : State, (∀ m, Sys2Proof.core.run (m + 2) s = Sys2Proof.core.run m t) ∧ t.AwaitsEvent ∧ t.inputs = rest ∧
      t.dev? d = some (dev.periodElapsed.served s.plat) := by
  have hrunning : dev.running = true := by rw [Device.running, hcount.valid, hcount.running]; rfl
  have hslot := State.dev?_setDev_same (s := { s with inputs := .interrupt :: rest }) hd dev.periodElapsed
  obtain ⟨t, hserve, ht⟩ :=
    (h.setDev_periodElapsed hd).step_interrupt hslot hcount.requests_periodElapsed rfl
  exact ⟨t, fun m => (core_run_succ (h.step_event hd hrunning hi) _).trans (core_run_succ hserve m), ht⟩

end AwaitsEvent

/-- After `k` served events `CYCLE` is `k` less, and after as many as it stood at the sequence has ended (R109). -/
theorem run_servedEvents {d : Nat} {i : ChIdx} {n : Word} {rest : List Input} (k : Nat) {s : State} {dev : Device}
    {x : Word} (h : s.AwaitsEvent) (hd : s.dev? d = some dev) (hcount : dev.Counting i n x) (hx : x ≠ 0)
    (hi : s.inputs = servedEvents d k ++ rest) (hk : k ≤ x.toNat) :
    ∃ (t : State) (dev' : Device), Sys2Proof.core.run (2 * k) s = .next t ∧ t.hstate = .idle ∧ t.inputs = rest ∧
      t.dev? d = some dev' ∧ (k < x.toNat → ∃ y : Word, y.toNat = x.toNat - k ∧ dev'.Counting i n y) ∧
      (k = x.toNat → dev'.Ended i n) := by
  induction k generalizing s dev x with
  | zero => exact ⟨s, dev, rfl, h.idle, hi, hd, fun _ => ⟨x, rfl, hcount⟩, fun h0 => absurd h0 (by bv_omega)⟩
  | succ k ih =>
    obtain ⟨t, hrun, ht, hin, hslot⟩ := h.run_served hd hcount hi
    by_cases h1 : x = 1
    · subst x
      obtain rfl : k = 0 := Nat.le_zero.mp (Nat.le_of_succ_le_succ hk)
      exact ⟨t, _, hrun 0, ht.idle, hin, hslot, fun hlt => absurd hlt (by decide),
        fun _ => hcount.served_last s.plat⟩
    · have hdown := countDown_toNat hx
      obtain ⟨u, dev', hrun', hidle, hin', hslot', hbefore, hend⟩ :=
        ih ht hslot (hcount.served s.plat h1) (by bv_omega) hin (by omega)
      refine ⟨u, dev', (hrun (2 * k)).trans hrun', hidle, hin', hslot', fun hlt => ?_, fun heq => hend (by omega)⟩
      obtain ⟨y, hy, hcount'⟩ := hbefore (by omega)
      exact ⟨y, by omega, hcount'⟩

/-- Settles O54: the sequence starts with `CYCLE` at `CYCLE_COUNT`. -/
theorem boundedSequenceEndsAfterExactlyN : Obligations.BoundedSequenceEndsAfterExactlyN := by
  intro s d k dev i rest hidle hirq hno hd hv hrun hi he hcycle hne hin hk
  have hcount : dev.Counting i (dev.ch i).cycleCount (dev.ch i).cycleCount := ⟨hv, hrun, hi, he, rfl, hcycle⟩
  obtain ⟨t, dev', hrun', hidle', hin', hslot, hbefore, hend⟩ :=
    run_servedEvents k ⟨hidle, hirq, hno⟩ hd hcount hne hin hk
  refine ⟨t, dev', hrun', hidle', hin', hslot, fun hlt => ?_, fun heq => ?_⟩
  · obtain ⟨y, hy, hcount'⟩ := hbefore hlt
    exact ⟨hcount'.channel.enabled, hcount'.channel.cycle ▸ hy⟩
  · exact ⟨(hend heq).record, (hend heq).output, (hend heq).cycle⟩

end Sys2Proof.Machine
end

section
/-! PROOFS. The queries (spec/43_queries.md R120 to R122): their values as arithmetic, the scan as the bit length, and
their completion. -/

namespace Sys2Proof.Machine

/-! ### The values -/

/-- The quotient is at most the clock, so no bit is lost (R120). -/
theorem clockFrequency_toNat (timerClock : Word) (prescale : Half) :
    (clockFrequency timerClock prescale).toNat = timerClock.toNat / (prescale.toNat + 1) := by
  rw [clockFrequency, BitVec.toNat_ofNat]
  exact Nat.mod_eq_of_lt ((Nat.div_le_self _ _).trans_lt timerClock.isLt)

/-- The count of ticks does not wrap at 16 bits (R121). -/
theorem periodTicks_toNat (reload : Half) : (periodTicks reload).toNat = reload.toNat + 1 := by
  rw [periodTicks, BitVec.toNat_ofNat]
  exact Nat.mod_eq_of_lt (by omega)

/-- The scan of R122 finds the bit length, from any start at or above the highest set bit. -/
theorem scanDown_eq_size {p : Half} {b : Nat} (h : p.toNat < 2 ^ b) : scanDown p b = p.toNat.size := by
  induction b with
  | zero => rw [Nat.lt_one_iff.mp h, Nat.size_zero, scanDown]
  | succ b ih =>
    rw [scanDown, BitVec.getLsbD]
    split
    · next hset => exact le_antisymm (Nat.lt_size.mpr (Nat.ge_two_pow_of_testBit hset)) (Nat.size_le.mpr h)
    · next hclear =>
      exact ih (not_le.mp fun hle => hclear (Nat.testBit_of_two_pow_le_and_two_pow_add_one_gt hle h))

theorem size_reload_le (reload : Half) : reload.toNat.size ≤ 16 := Nat.size_le.mpr reload.isLt

theorem resolutionBits_toNat (reload : Half) : (resolutionBits reload).toNat = reload.toNat.size := by
  rw [resolutionBits, scanDown_eq_size reload.isLt, BitVec.toNat_ofNat]
  exact Nat.mod_eq_of_lt ((size_reload_le reload).trans_lt (by decide))

/-! ### The commands -/

section Queries

variable {s : State} {d : Byte} {dev : Device} (hd : s.dev? d.toNat = some dev) (hv : dev.valid = true)
include hd hv

theorem execGetClockFrequency_of_live : execGetClockFrequency d s = .next
    { s with rdata := clockFrequency dev.timerClock dev.prescale, result := ResultCode.ok.word } := by
  simp only [execGetClockFrequency, liveDevice_eq_some.mpr ⟨hd, hv⟩, finish_eq]

theorem execGetPeriodTicks_of_live : execGetPeriodTicks d s = .next
    { s with rdata := periodTicks dev.reload, result := ResultCode.ok.word } := by
  simp only [execGetPeriodTicks, liveDevice_eq_some.mpr ⟨hd, hv⟩, finish_eq]

theorem execGetResolutionBits_of_live : execGetResolutionBits d s = .next
    { s with rdata := resolutionBits dev.reload, result := ResultCode.ok.word } := by
  simp only [execGetResolutionBits, liveDevice_eq_some.mpr ⟨hd, hv⟩, finish_eq]

end Queries

/-- Settles O34: the value is the bit length, which the two powers of two bracket. -/
theorem resolutionQueryCompletes : Obligations.ResolutionQueryCompletes := by
  intro s d dev hd hv
  refine ⟨_, execGetResolutionBits_of_live hd hv, ?_, fun hzero => ?_, fun hne => ?_⟩
  · rw [resolutionBits_toNat]
    exact size_reload_le dev.reload
  · rw [hzero]
    rfl
  · rw [resolutionBits_toNat]
    have hpos : 0 < dev.reload.toNat.size := Nat.size_pos.mpr (Nat.pos_of_ne_zero (BitVec.toNat_ne.mp hne))
    exact ⟨hpos, Nat.lt_size.mp (Nat.sub_one_lt_of_lt hpos), Nat.lt_size_self _⟩

/-- Settles O33: both values fit in `RDATA`. -/
theorem clockAndPeriodQueriesComplete : Obligations.ClockAndPeriodQueriesComplete :=
  fun _ _ _ hd hv =>
    ⟨⟨_, clockFrequency_toNat _ _, execGetClockFrequency_of_live hd hv⟩,
      ⟨_, periodTicks_toNat _, execGetPeriodTicks_of_live hd hv⟩⟩

end Sys2Proof.Machine
end

section
/-! PROOFS. The checks every command makes of its operands (spec/60_exceptions.md R152, R153), said once: what lies behind
them runs where they pass. That a command ignores its context, and where one stops, follow; then INIT
(spec/44_channel_commands.md R130, R131). -/

namespace Sys2Proof.Machine

/-! ### The checks -/

/-- The device check, then `run` on the slot (spec/60_exceptions.md R152). -/
def onDevice (d : Byte) (s : State) (run : Device → Host.Outcome State Fault Refusal) :
    Host.Outcome State Fault Refusal :=
  match liveDevice s d with
  | none => finish .noDevice s
  | some dev => run dev

/-- The channel check, then `run` on the channel (spec/60_exceptions.md R153). -/
def onIndex (ch : Byte) (dev : Device) (s : State) (run : ChIdx → Host.Outcome State Fault Refusal) :
    Host.Outcome State Fault Refusal :=
  match channelIndex dev ch with
  | none => finish .channel s
  | some i => run i

/-- Both checks, then `run` on the slot and the channel. -/
def onChannel (d ch : Byte) (s : State) (run : Device → ChIdx → Host.Outcome State Fault Refusal) :
    Host.Outcome State Fault Refusal :=
  onDevice d s fun dev => onIndex ch dev s (run dev)

/-- Behind the checks of SET_FREQUENCY: what it does with the answer of SOLVE (spec/40_divisor_solver.md R84). -/
def applyDivisors (d : Nat) (dev : Device) (s : State) : Option DivisorPair → Host.Outcome State Fault Refusal
  | none => finish .frequency s
  | some r => finish .ok (commit d true (s.setDev d (dev.withDivisors r)))

/-- Behind the checks of CONFIGURE_CHANNEL: what it does with the pin-mux's answer, `c` the record to be written
(spec/44_channel_commands.md R134). -/
def applyConfigure (d : Nat) (dev : Device) (i : ChIdx) (c : Channel) (r : PinAnswer × State) :
    Host.Outcome State Fault Refusal :=
  match r.1 with
  | .fail => finish .pinAssignment r.2
  | .ok => finish .ok (r.2.setDev d (dev.setCh i c))

section Commands

variable (d ch : Byte) (s : State)

theorem exec_setFrequency (f : Word) : exec (.setFrequency d f) s =
    onDevice d s fun dev => applyDivisors d.toNat dev s (solve dev.timerClock f) := rfl

theorem exec_configureChannel (pin : Byte) (af : AltFn) (inv : Bool) (n ccb cdata scb sdata : Word) :
    exec (.configureChannel d ch pin af inv n ccb cdata scb sdata) s = onChannel d ch s fun dev i =>
      applyConfigure d.toNat dev i ((dev.ch i).configured pin af inv n ccb cdata scb sdata)
        (movePin (dev.ch i) pin af s) := rfl

theorem exec_enableDutyCycle (duty : Half) : exec (.enableDutyCycle d ch duty) s = onChannel d ch s fun dev i =>
    finish .ok (commit d.toNat false (s.setDev d.toNat (dev.enableCh i duty))) := rfl

theorem exec_disable : exec (.disable d ch) s = onChannel d ch s fun _ i =>
    finish (disableCode (disableChannel d.toNat i s).1) (disableChannel d.toNat i s).2 := rfl

end Commands

theorem onChannel_of_live {s : State} {d ch : Byte} {dev : Device} {i : ChIdx}
    (hd : s.dev? d.toNat = some dev) (hv : dev.valid = true) (hch : i.val = ch.toNat) (hi : i.val < dev.nCh)
    (run : Device → ChIdx → Host.Outcome State Fault Refusal) : onChannel d ch s run = run dev i := by
  simp only [onChannel, onDevice, onIndex, liveDevice_eq_some.mpr ⟨hd, hv⟩, channelIndex_eq_some.mpr ⟨hch, hch ▸ hi⟩]

/-! ### Where a command stops -/

theorem finish_next (code : ResultCode) (s : State) : ∃ t, finish code s = .next t := ⟨_, finish_eq code s⟩

section Next

variable {d ch : Byte} {s : State}

theorem onDevice_next {run : Device → Host.Outcome State Fault Refusal} (h : ∀ dev, ∃ t, run dev = .next t) :
    ∃ t, onDevice d s run = .next t := by
  unfold onDevice
  split
  · exact finish_next _ _
  · exact h _

theorem onChannel_next {run : Device → ChIdx → Host.Outcome State Fault Refusal}
    (h : ∀ dev i, ∃ t, run dev i = .next t) : ∃ t, onChannel d ch s run = .next t := by
  refine onDevice_next fun dev => ?_
  unfold onIndex
  split
  · exact finish_next _ _
  · exact h _ _

end Next

theorem applyDivisors_next (d : Nat) (dev : Device) (s : State) (r : Option DivisorPair) :
    ∃ t, applyDivisors d dev s r = .next t := by
  cases r with
  | none => exact finish_next _ _
  | some r => exact finish_next _ _

theorem applyConfigure_next (d : Nat) (dev : Device) (i : ChIdx) (c : Channel) (r : PinAnswer × State) :
    ∃ t, applyConfigure d dev i c r = .next t := by
  unfold applyConfigure
  split
  · exact finish_next _ _
  · exact finish_next _ _

/-! ### INIT -/

section Init

variable {s : State} {d : Byte} {h : Word}

theorem execInit_of_no_free_slot (hd : ∀ dev, s.dev? d.toNat = some dev → dev.valid = true) :
    execInit d h s = .next { s with result := ResultCode.noDevice.word } := by
  unfold execInit
  split
  · exact finish_eq _ _
  · next dev hdev =>
    rw [if_pos (hd dev hdev)]
    exact finish_eq _ _

variable {dev : Device} (hd : s.dev? d.toNat = some dev) (hv : dev.valid = false)
include hd hv

theorem execInit_of_null (h0 : h = 0) :
    execInit d h s = .next { s with result := ResultCode.noTimerHandle.word } := by
  simp only [execInit, hd, hv, if_pos h0, Bool.false_eq_true, if_false, finish_eq]

theorem execInit_of_unreachable (h0 : h ≠ 0) (hm : timerOf s.plat h = none) :
    execInit d h s = .fault .unreachablePeripheral := by
  simp only [execInit, hd, hv, hm, if_neg h0, Bool.false_eq_true, if_false]

theorem execInit_of_timer (h0 : h ≠ 0) {m : TimerModel} (hm : timerOf s.plat h = some m) :
    execInit d h s = .next
      { s.setDev d.toNat (dev.init h m) with irqEn := true, result := ResultCode.ok.word } := by
  simp only [execInit, hd, hv, hm, if_neg h0, Bool.false_eq_true, if_false, finish_eq]

end Init

/-- Settles O25: one clause for each of INIT's checks. -/
theorem initRejects : Obligations.InitRejects :=
  fun _ _ _ => ⟨execInit_of_no_free_slot, fun _ hd hv => ⟨execInit_of_null hd hv, execInit_of_unreachable hd hv⟩⟩

/-- Settles O24: the slot is `Device.init` of the slot found, channel by channel. -/
theorem initCompletes : Obligations.InitCompletes := by
  intro s d h dev m hd hv h0 hm
  refine ⟨_, dev.init h m, execInit_of_timer hd hv h0 hm, rfl, rfl, rfl, rfl, State.dev?_setDev_same hd _, rfl,
    fun i => ?_⟩
  rw [Device.ch_init]
  rfl

/-- Settles O41: behind the checks every command finishes; INIT's faulting check is the exception. -/
theorem commandsStopOnlyAtUnreachableInit : Obligations.CommandsStopOnlyAtUnreachableInit := by
  intro i s
  cases i with
  | init d h =>
    by_cases hfree : ∀ dev, s.dev? d.toNat = some dev → dev.valid = true
    · exact .inl ⟨_, execInit_of_no_free_slot hfree⟩
    · simp only [not_forall, Bool.not_eq_true] at hfree
      obtain ⟨dev, hd, hv⟩ := hfree
      obtain h0 | h0 := eq_or_ne h 0
      · exact .inl ⟨_, execInit_of_null hd hv h0⟩
      · cases hm : timerOf s.plat h with
        | none => exact .inr ⟨d, h, rfl, h0, hm, execInit_of_unreachable hd hv h0 hm⟩
        | some m => exact .inl ⟨_, execInit_of_timer hd hv h0 hm⟩
  | setFrequency => exact .inl (onDevice_next fun _ => applyDivisors_next _ _ _ _)
  | configureChannel => exact .inl (onChannel_next fun _ _ => applyConfigure_next _ _ _ _ _)
  | enableDutyCycle | disable => exact .inl (onChannel_next fun _ _ => finish_next _ _)
  | getClockFrequency | getPeriodTicks | getResolutionBits => exact .inl (onDevice_next fun _ => finish_next _ _)

/-! ### A command ignores its context -/

/-- The outcome with the handler moved to position `h`. -/
def outcomeGoto (h : HState) : Host.Outcome State Fault Refusal → Host.Outcome State Fault Refusal
  | .next t => .next (t.goto h)
  | .fault r => .fault r
  | .refused r => .refused r

section Context

variable (h : HState) (d : Nat) (s : State)

theorem finish_goto (code : ResultCode) : finish code (s.goto h) = outcomeGoto h (finish code s) := rfl

theorem assignPin_goto (pin : Byte) (af : AltFn) :
    assignPin pin af (s.goto h) = ((assignPin pin af s).1, (assignPin pin af s).2.goto h) := by
  unfold assignPin
  split
  · rfl
  · rw [drawPin_goto]
    rfl

theorem movePin_goto (c : Channel) (pin : Byte) (af : AltFn) :
    movePin c pin af (s.goto h) = ((movePin c pin af s).1, (movePin c pin af s).2.goto h) := by
  unfold movePin
  split
  · rw [unassignPin_goto]
    dsimp only
    split
    · rfl
    · exact assignPin_goto h _ pin af
  · rfl

theorem disableChannel_goto_answer (i : ChIdx) : (disableChannel d i (s.goto h)).1 = (disableChannel d i s).1 := by
  cases hd : s.dev? d with
  | none => rw [disableChannel_none i hd, disableChannel_none (s := s.goto h) i hd]
  | some dev => rw [disableChannel_eq i hd, disableChannel_eq (s := s.goto h) i hd, unassignPin_goto]

theorem applyDivisors_goto (dev : Device) (r : Option DivisorPair) :
    applyDivisors d dev (s.goto h) r = outcomeGoto h (applyDivisors d dev s r) := by
  cases r with
  | none => rfl
  | some r =>
    have := commit_goto (s.setDev d (dev.withDivisors r)) h d true
    exact congrArg (finish .ok) this

theorem applyConfigure_goto (dev : Device) (i : ChIdx) (c : Channel) (r : PinAnswer × State) :
    applyConfigure d dev i c (r.1, r.2.goto h) = outcomeGoto h (applyConfigure d dev i c r) := by
  obtain ⟨a, t⟩ := r
  cases a <;> rfl

variable {h s}

theorem onDevice_goto (d : Byte) {run run' : Device → Host.Outcome State Fault Refusal}
    (hrun : ∀ dev, run' dev = outcomeGoto h (run dev)) :
    onDevice d (s.goto h) run' = outcomeGoto h (onDevice d s run) := by
  rw [onDevice, onDevice, liveDevice_congr (State.goto_devices s h)]
  cases liveDevice s d with
  | none => rfl
  | some dev => exact hrun dev

theorem onChannel_goto (d ch : Byte) {run run' : Device → ChIdx → Host.Outcome State Fault Refusal}
    (hrun : ∀ dev i, run' dev i = outcomeGoto h (run dev i)) :
    onChannel d ch (s.goto h) run' = outcomeGoto h (onChannel d ch s run) := by
  refine onDevice_goto d fun dev => ?_
  rw [onIndex, onIndex]
  cases channelIndex dev ch with
  | none => rfl
  | some i => exact hrun dev i

end Context

/-- Every branch of INIT moves the handler of the state it finishes with. -/
theorem execInit_goto (d : Byte) (w : Word) (s : State) (h : HState) :
    execInit d w (s.goto h) = outcomeGoto h (execInit d w s) := by
  unfold execInit
  rw [State.dev?_goto, State.goto_plat]
  split
  · rfl
  · split
    · rfl
    · split
      · rfl
      · split <;> rfl

/-- Each command commutes with a move of the handler, as do its checks and what lies behind them. -/
theorem exec_goto (i : Instr) (s : State) (h : HState) : exec i (s.goto h) = outcomeGoto h (exec i s) := by
  cases i with
  | init d w => exact execInit_goto d w s h
  | setFrequency d f =>
    rw [exec_setFrequency, exec_setFrequency]
    exact onDevice_goto d fun dev => applyDivisors_goto h d.toNat s dev _
  | configureChannel d ch pin af =>
    rw [exec_configureChannel, exec_configureChannel]
    refine onChannel_goto d ch fun dev i => ?_
    rw [movePin_goto]
    exact applyConfigure_goto h _ dev i _ _
  | enableDutyCycle d ch duty =>
    rw [exec_enableDutyCycle, exec_enableDutyCycle]
    refine onChannel_goto d ch fun dev i => ?_
    exact congrArg (finish .ok) (commit_goto (s.setDev d.toNat (dev.enableCh i duty)) h d.toNat false)
  | disable d ch =>
    rw [exec_disable, exec_disable]
    refine onChannel_goto d ch fun dev i => ?_
    rw [disableChannel_goto_answer, disableChannel_goto, finish_goto]
  | getClockFrequency d | getPeriodTicks d | getResolutionBits d => exact onDevice_goto d fun _ => rfl

/-- Settles O40: the outcome moved is the outcome from the state moved. -/
theorem commandsIgnoreContext : Obligations.CommandsIgnoreContext := by
  intro i s h
  rw [exec_goto]
  cases exec i s <;> rfl

end Sys2Proof.Machine
end

section
/-! PROOFS. CONFIGURE_CHANNEL (spec/44_channel_commands.md R134, R135): the pin-mux calls in their order, the record it
writes, and that a commit after it would find nothing to do. -/

namespace Sys2Proof.Machine

/-! ### Pin-mux calls -/

/-- From `s` the pin-mux is called with the port events `calls`, each call using one answer; `r` is the last answer and
the state after it (spec/20_memory.md R54, log 2). -/
structure PinCalls (s : State) (r : PinAnswer × State) (calls : List Output) (a : PinAnswer) : Prop where
  answer : r.1 = a
  block : s.SameBlock r.2
  outputs : r.2.outputs = s.outputs ++ calls
  used : s.AnswersUsed r.2 calls.length

section PinCalls

variable {s : State}

theorem PinCalls.none (s : State) : PinCalls s (.ok, s) [] .ok :=
  ⟨rfl, .refl s, (List.append_nil _).symm, .refl s⟩

theorem PinCalls.trans {r r' : PinAnswer × State} {calls calls' : List Output} {a a' : PinAnswer}
    (h : PinCalls s r calls a) (k : PinCalls r.2 r' calls' a') : PinCalls s r' (calls ++ calls') a' := by
  refine ⟨k.answer, h.block.trans k.block, ?_, ?_⟩
  · rw [k.outputs, h.outputs, List.append_assoc]
  · rw [List.length_append]
    exact h.used.trans k.used

/-- `unassign_pin` of a pin (spec/20_memory.md R54). -/
theorem pinCalls_unassignPin {pin : Byte} (h : pin ≠ Config.noPin) :
    PinCalls s (unassignPin pin s) [.unassignPin pin (s.pinAnswerAt 0)] (s.pinAnswerAt 0) := by
  obtain ⟨hout, -, hone⟩ := unassignPin_events pin s
  rw [State.releaseEvents, if_neg h] at hout
  exact ⟨(hone h).1, (unassignPin_spec pin s).1, hout, (hone h).2⟩

theorem unassignPin_noPin {pin : Byte} (h : pin = Config.noPin) (s : State) : unassignPin pin s = (.ok, s) := if_pos h

variable {pin : Byte} {af : AltFn}

/-- `assign_pin` of a pin and an alternate function (spec/20_memory.md R54). -/
theorem pinCalls_assignPin (h : pin ≠ Config.noPin ∧ af ≠ Config.noAf) :
    PinCalls s (assignPin pin af s) [.assignPin pin af s.plat.pullMode (s.pinAnswerAt 0)] (s.pinAnswerAt 0) := by
  obtain ⟨hanswer, hused, hout⟩ := (assignPin_events pin af s).2 (not_or.mpr h)
  exact ⟨hanswer, (assignPin_spec pin af s).1, hout, hused⟩

theorem assignPin_unrouted (h : ¬(pin ≠ Config.noPin ∧ af ≠ Config.noAf)) (s : State) :
    assignPin pin af s = (.ok, s) :=
  (assignPin_events pin af s).1 (by rwa [ne_eq, ne_eq, ← not_or, not_not] at h)

end PinCalls

/-! ### Moving the pin -/

section MovePin

variable {s : State} {c : Channel} {pin : Byte} {af : AltFn}

theorem Channel.pinMoves_iff : c.pinMoves pin af = true ↔ pin ≠ c.cfg.pin ∨ af ≠ c.cfg.af := by
  simp [Channel.pinMoves]

theorem movePin_of_stays (h : ¬(pin ≠ c.cfg.pin ∨ af ≠ c.cfg.af)) : movePin c pin af s = (.ok, s) :=
  if_neg (mt Channel.pinMoves_iff.mp h)

variable (h : pin ≠ c.cfg.pin ∨ af ≠ c.cfg.af)
include h

/-- A release that fails ends the move (R134 step 5). -/
theorem movePin_of_fail (ha : (unassignPin c.cfg.pin s).1 = .fail) :
    movePin c pin af s = unassignPin c.cfg.pin s := by
  simp only [movePin, Channel.pinMoves_iff.mpr h, if_true, ha]

/-- After the release the new pin is assigned (R134 step 6). -/
theorem movePin_of_ok (ha : (unassignPin c.cfg.pin s).1 = .ok) :
    movePin c pin af s = assignPin pin af (unassignPin c.cfg.pin s).2 := by
  simp only [movePin, Channel.pinMoves_iff.mpr h, if_true, ha]

/-- A record without a pin has nothing to release. -/
theorem movePin_of_noPin (hold : c.cfg.pin = Config.noPin) : movePin c pin af s = assignPin pin af s := by
  rw [movePin_of_ok h] <;> rw [unassignPin_noPin hold]

/-- A command that gives no pin has nothing to assign. -/
theorem movePin_of_unrouted (hr : ¬(pin ≠ Config.noPin ∧ af ≠ Config.noAf)) :
    movePin c pin af s = unassignPin c.cfg.pin s := by
  cases ha : (unassignPin c.cfg.pin s).1 with
  | fail => exact movePin_of_fail h ha
  | ok => rw [movePin_of_ok h ha, assignPin_unrouted hr, ← ha]

section Replace

variable (hold : c.cfg.pin ≠ Config.noPin)
include hold

/-- The old pin is not released: the new one is not asked for. -/
theorem pinCalls_movePin_of_fail (ha : s.pinAnswerAt 0 = .fail) :
    PinCalls s (movePin c pin af s) [.unassignPin c.cfg.pin .fail] .fail := by
  have hrelease := pinCalls_unassignPin (s := s) hold
  rw [ha] at hrelease
  rwa [movePin_of_fail h hrelease.answer]

/-- The old pin is released, then the new one is asked for. -/
theorem pinCalls_movePin_of_ok (hr : pin ≠ Config.noPin ∧ af ≠ Config.noAf) (ha : s.pinAnswerAt 0 = .ok) :
    PinCalls s (movePin c pin af s)
      [.unassignPin c.cfg.pin .ok, .assignPin pin af s.plat.pullMode (s.pinAnswerAt 1)] (s.pinAnswerAt 1) := by
  have hrelease := pinCalls_unassignPin (s := s) hold
  have hassign := pinCalls_assignPin (s := (unassignPin c.cfg.pin s).2) hr
  rw [hrelease.block.plat_eq, hrelease.used.pinAnswerAt_eq] at hassign
  rw [ha] at hrelease
  rw [movePin_of_ok h hrelease.answer]
  exact hrelease.trans hassign

end Replace

end MovePin

/-! ### The command -/

/-- A structural change is one of the four the rule lists (R134 steps 3, 7, 8). -/
theorem Channel.structural_eq (c : Channel) (pin : Byte) (af : AltFn) (inv : Bool) :
    c.structural pin af inv = (decide (c.chcfg = Config.sentinel) || decide (pin ≠ c.cfg.pin) ||
      decide (af ≠ c.cfg.af) || decide (inv ≠ c.cfg.invert)) := by
  simp only [Channel.structural, Channel.pinMoves, Channel.disabled, bne, beq_eq_decide, ne_eq, decide_not,
    Bool.or_assoc]

section Live

variable {s : State} {d ch : Byte} {dev : Device} {i : ChIdx}
  (hd : s.dev? d.toNat = some dev) (hv : dev.valid = true) (hch : i.val = ch.toNat) (hi : i.val < dev.nCh)
  {pin : Byte} {af : AltFn} (inv : Bool) (n ccb cdata scb sdata : Word)
include hd hv hch hi

theorem exec_configureChannel_of_ok (hm : (movePin (dev.ch i) pin af s).1 = .ok) :
    exec (.configureChannel d ch pin af inv n ccb cdata scb sdata) s = finish .ok
      ((movePin (dev.ch i) pin af s).2.setDev d.toNat
        (dev.setCh i ((dev.ch i).configured pin af inv n ccb cdata scb sdata))) := by
  rw [exec_configureChannel, onChannel_of_live hd hv hch hi, applyConfigure, hm]

theorem exec_configureChannel_of_fail (hm : (movePin (dev.ch i) pin af s).1 = .fail) :
    exec (.configureChannel d ch pin af inv n ccb cdata scb sdata) s =
      finish .pinAssignment (movePin (dev.ch i) pin af s).2 := by
  rw [exec_configureChannel, onChannel_of_live hd hv hch hi, applyConfigure, hm]

/-- The command's port events and answers are those of the move; the last answer decides the code and whether the slots
are written (R134, spec/60_exceptions.md R151). -/
theorem exec_configureChannel_calls :
    ∃ t, exec (.configureChannel d ch pin af inv n ccb cdata scb sdata) s = .next t ∧
      ∀ calls a, PinCalls s (movePin (dev.ch i) pin af s) calls a →
        t.outputs = s.outputs ++ calls ∧ s.AnswersUsed t calls.length ∧
        (a = .fail → t.result = ResultCode.pinAssignment.word ∧ t.devices = s.devices) ∧
        (a = .ok → t.result = ResultCode.ok.word) := by
  cases hm : (movePin (dev.ch i) pin af s).1 with
  | ok =>
    refine ⟨_, exec_configureChannel_of_ok hd hv hch hi inv n ccb cdata scb sdata hm, fun calls a hc => ?_⟩
    obtain rfl := hm.symm.trans hc.answer
    exact ⟨hc.outputs, hc.used, nofun, fun _ => rfl⟩
  | fail =>
    refine ⟨_, exec_configureChannel_of_fail hd hv hch hi inv n ccb cdata scb sdata hm, fun calls a hc => ?_⟩
    obtain rfl := hm.symm.trans hc.answer
    exact ⟨hc.outputs, hc.used, fun _ => ⟨rfl, hc.block.devices_eq⟩, nofun⟩

end Live

/-- Settles O26: the slot is written with the configured channel once the pin has moved. -/
theorem configureChannelCompletes : Obligations.ConfigureChannelCompletes := by
  intro s d ch pin af inv n ccb cdata scb sdata dev i hd hv hch hi hm
  have hslot := (movePin_spec (dev.ch i) pin af s).1.dev?_eq d.toNat
  refine ⟨_, _, exec_configureChannel_of_ok hd hv hch hi inv n ccb cdata scb sdata hm, rfl,
    State.dev?_setDev_same (hslot.trans hd) _, rfl, fun j hj => Device.ch_setCh_ne _ hj _, ?_, ?_⟩ <;>
    rw [Device.ch_setCh_same]
  · rfl
  · rw [Channel.cfg_configured, Channel.structural_eq]
    simp only [Bool.or_assoc]
    rfl

/-- Settles O27: the calls of `movePin` in its four cases, by which of the two calls is a no-op. -/
theorem configureMovesThePin : Obligations.ConfigureMovesThePin := by
  intro s d ch pin af inv n ccb cdata scb sdata dev i hd hv hch hi
  obtain ⟨t, hexec, ht⟩ := exec_configureChannel_calls (pin := pin) (af := af) hd hv hch hi inv n ccb cdata scb sdata
  refine ⟨t, hexec, fun hnone => ?_, fun hmoves hold hr => ?_, fun hmoves hold hr => ?_,
    fun hmoves hold hr => ⟨fun ha => ?_, fun ha hb => ?_, fun ha hb => ?_⟩⟩
  · have hmove : movePin (dev.ch i) pin af s = (.ok, s) := by
      by_cases hmoves : pin ≠ (dev.ch i).cfg.pin ∨ af ≠ (dev.ch i).cfg.af
      · obtain hstays | ⟨hold, hr⟩ := hnone
        · exact absurd hmoves hstays
        · rw [movePin_of_noPin hmoves hold, assignPin_unrouted hr]
      · exact movePin_of_stays hmoves
    obtain ⟨hout, hused, -, hok⟩ := ht _ _ (hmove ▸ PinCalls.none s)
    exact ⟨hok rfl, hout.trans (List.append_nil _), hused⟩
  · exact ht _ _ (movePin_of_noPin hmoves hold ▸ pinCalls_assignPin hr)
  · exact ht _ _ (movePin_of_unrouted hmoves hr ▸ pinCalls_unassignPin hold)
  · obtain ⟨hout, hused, hfail, -⟩ := ht _ _ (pinCalls_movePin_of_fail hmoves hold ha)
    exact ⟨(hfail rfl).1, (hfail rfl).2, hused, hout⟩
  · have hcalls := pinCalls_movePin_of_ok hmoves hold hr ha
    rw [hb] at hcalls
    obtain ⟨hout, hused, hfail, -⟩ := ht _ _ hcalls
    exact ⟨(hfail rfl).1, (hfail rfl).2, hused, hout⟩
  · have hcalls := pinCalls_movePin_of_ok hmoves hold hr ha
    rw [hb] at hcalls
    obtain ⟨hout, hused, -, hok⟩ := ht _ _ hcalls
    exact ⟨hok rfl, hused, hout⟩

/-! ### A commit with nothing to do -/

/-- Between atomic steps COMMIT leaves a slot alone where a record is counted (spec/41_commit_engine.md R95, R98). -/
theorem commitDevice_settled_of_counted {p : Platform} {dev : Device} {i : ChIdx}
    (hu : ∀ j : ChIdx, (dev.ch j).cfg.update = false) (hi : i.val < dev.nCh)
    (hc : countsRecord p.countRule (dev.ch i) = true) : commitDevice p false dev = (dev, false) := by
  have hne := enabledTotal_ne_zero hi hc
  rw [commitDevice_leavesCounter p false hne] <;> rw [commitLoop_settled hu]
  exact hne

/-- With no counted record the counter already stands, so COMMIT writes nothing (spec/10_state.md R33(d)). -/
theorem Device.Inv.commit_eq_self {p : Platform} {dev : Device} (h : dev.Inv) (hp : p.countRule = .nonDisabled) :
    commitDevice p false dev = (dev, false) := by
  have hsettled (j : ChIdx) := (h.channels j).settled
  by_cases hlive : ∃ j : ChIdx, j.val < dev.nCh ∧ (dev.ch j).chcfg ≠ Config.sentinel
  · obtain ⟨j, hj, hne⟩ := hlive
    exact commitDevice_settled_of_counted hsettled hj (hp ▸ Channel.counted_nonDisabled_iff.mpr hne)
  · have hoff : dev.counterEn = false := Bool.eq_false_iff.mpr (mt h.counter hlive)
    obtain hc | hc := commitDevice_settled p hsettled
    · rw [hc, ← hoff]
    · exact hc

theorem commit_eq_self {s : State} {d : Nat} {dev : Device} {u : Bool} (hd : s.dev? d = some dev)
    (h : commitDevice s.plat u dev = (dev, false)) : commit d u s = s := by
  simp only [commit, hd, h, Bool.false_eq_true, if_false]
  exact State.setDev_self hd

/-- CONFIGURE_CHANNEL returns `OK` on a valid slot only, and leaves it valid (R134, spec/60_exceptions.md R152). -/
theorem exec_configureChannel_ok_slot {s t : State} {d ch pin : Byte} {af : AltFn} {inv : Bool}
    {n ccb cdata scb sdata : Word} (e : exec (.configureChannel d ch pin af inv n ccb cdata scb sdata) s = .next t)
    (hok : t.result = ResultCode.ok.word) : ∃ dev', t.dev? d.toNat = some dev' ∧ dev'.valid = true := by
  obtain rfl | ⟨dev, hd, hv, rfl | ⟨k, hk, hlt, ⟨-, rfl⟩ | ⟨-, rfl⟩⟩⟩ := execConfigureChannel_next e
  · cases ResultCode.word_inj (a := .noDevice).mp hok
  · cases ResultCode.word_inj (a := .channel).mp hok
  · cases ResultCode.word_inj (a := .pinAssignment).mp hok
  · have hslot := (movePin_spec (dev.ch k) pin af s).1.dev?_eq d.toNat
    exact ⟨_, State.dev?_setDev_same (hslot.trans hd) _, hv⟩

/-- Settles O28: the slot configured keeps the invariant, in which a commit has nothing to do. -/
theorem configureNeedsNoCommit : Obligations.ConfigureNeedsNoCommit := by
  intro s t d ch pin af inv n ccb cdata scb sdata hinv hrule e hok
  obtain ⟨dev, hd, hv⟩ := exec_configureChannel_ok_slot e hok
  have hplat : t.plat = s.plat := by rw [(exec_effect e).frame]
  have hdev := (hinv.exec e).devices dev (State.mem_of_dev? hd) hv
  exact commit_eq_self hd (hdev.commit_eq_self (hplat ▸ hrule))

end Sys2Proof.Machine
end

section
/-! PROOFS. ENABLE_DUTY_CYCLE and DISABLE (spec/44_channel_commands.md R137 to R141): the slot is the commit of the slot
with one channel enabled, or cleared; and the frame of the three channel commands. -/

namespace Sys2Proof.Machine

/-! ### COMMIT on a slot just written -/

section CommitSetDev

variable {s : State} {d : Nat} {dev : Device} (u : Bool) (h : s.dev? d = some dev) (dev₁ : Device)
include h

theorem commit_setDev_slot : (commit d u (s.setDev d dev₁)).dev? d = some (commitDevice s.plat u dev₁).1 :=
  commit_dev?_same u (State.dev?_setDev_same h dev₁)

theorem commit_setDev_outputs : (commit d u (s.setDev d dev₁)).outputs =
    s.outputs ++ if (commitDevice s.plat u dev₁).2 then [.counterReset d] else [] :=
  commit_outputs u (State.dev?_setDev_same h dev₁)

end CommitSetDev

/-! ### ENABLE_DUTY_CYCLE -/

section EnableCh

variable (p : Platform) {dev : Device} {i : ChIdx} (duty : Half) (hi : i.val < dev.nCh)
include hi

/-- The channel enabled, after the commit (R137, spec/41_commit_engine.md R91 to R93). -/
theorem commitDevice_enableCh_same :
    let c := dev.ch i
    let c' := (commitDevice p false (dev.enableCh i duty)).1.ch i
    c'.compare = dutyToCompare duty dev.reload ∧
    c'.cfg = { c.cfg with duty := duty, enabled := true, update := false, configure := false } ∧
    c' = { c with
      chcfg := c'.chcfg
      compare := c'.compare
      compareAct := c'.compareAct
      ocPwm := c.ocPwm || c.cfg.configure
      ocInvert := if c.cfg.configure then c.cfg.invert else c.ocInvert
      ocPreload := c.ocPreload || c.cfg.configure
      chOutEn := c.chOutEn || c.cfg.configure } := by
  have hsel : ((dev.enableCh i duty).ch i).selected false = true := by
    rw [Device.ch_enableCh_same]
    exact Channel.selected_enable _ _ _
  have h := commitDevice_ch_of_selected p false (dev := dev.enableCh i duty) hi hsel
  dsimp only at h
  rw [Device.ch_enableCh_same, Channel.cfg_enable] at h
  exact h

/-- The counter is not stopped: the enabled record is counted (R95). -/
theorem commitDevice_enableCh_counter :
    (commitDevice p false (dev.enableCh i duty)).1.counterEn = dev.counterEn ∨
      (commitDevice p false (dev.enableCh i duty)).1.counterEn = true := by
  have he : ((dev.enableCh i duty).ch i).cfg.enabled = true := by rw [Device.ch_enableCh_same, Channel.cfg_enable]
  exact commitDevice_counter_of_counted p false (dev := dev.enableCh i duty) hi (Channel.counted_of_enabled he _)

/-- The commit of an enabled channel whose `configure` flag is clear is no cold start: its record is counted but takes the
cheap path (R93, R95). -/
theorem commitDevice_enableCh_cheap (hconf : (dev.ch i).cfg.configure = false) :
    commitDevice p false (dev.enableCh i duty) = ((commitLoop false (dev.enableCh i duty)).1, false) := by
  have he : ((dev.enableCh i duty).ch i).cfg.enabled = true := by rw [Device.ch_enableCh_same, Channel.cfg_enable]
  have hcounted := Channel.counted_of_enabled he p.countRule
  refine commitDevice_leavesCounter p false (enabledTotal_ne_zero (dev := dev.enableCh i duty) hi hcounted) fun heq => ?_
  have hcold := enabledTotal_eq_total_iff.mp heq i hi hcounted
  rw [Device.ch_enableCh_same, Channel.configures_enable, hconf] at hcold
  cases hcold

end EnableCh

theorem exec_enableDutyCycle_of_live {s : State} {d ch : Byte} {dev : Device} {i : ChIdx} (duty : Half)
    (hd : s.dev? d.toNat = some dev) (hv : dev.valid = true) (hch : i.val = ch.toNat) (hi : i.val < dev.nCh) :
    exec (.enableDutyCycle d ch duty) s =
      finish .ok (commit d.toNat false (s.setDev d.toNat (dev.enableCh i duty))) := by
  rw [exec_enableDutyCycle, onChannel_of_live hd hv hch hi]

/-- Settles O29: the channel is selected by the commit, and the record it counts keeps the counter from stopping. -/
theorem enableDutyCycleCompletes : Obligations.EnableDutyCycleCompletes := by
  intro s d ch duty dev i hd hv hch hi
  obtain ⟨hcompare, hcfg, hregs⟩ := commitDevice_enableCh_same s.plat duty hi
  refine ⟨_, _, exec_enableDutyCycle_of_live duty hd hv hch hi, rfl, commit_setDev_slot false hd _, hcfg, ?_,
    fun hconf => ?_, fun hconf => ?_, ?_, ?_, ?_, ?_, ?_, ?_, commitDevice_enableCh_counter s.plat duty hi⟩
  · rw [hcompare, dutyToCompare_toNat]
  · rw [hregs]
    simp [hconf]
  · rw [hregs]
    simp [hconf]
  all_goals rw [hregs]

/-- Settles O30: the sentinel has no `configure` flag, so the commit takes the cheap path and is no cold start. -/
theorem enableOfDisabledRecord : Obligations.EnableOfDisabledRecord := by
  intro s d ch duty dev i hd hv hch hi hs _
  have hconf := (Channel.cfg_of_sentinel hs).2.2
  have hcommit := commitDevice_enableCh_cheap s.plat duty hi hconf
  have hactive : ((commitDevice s.plat false (dev.enableCh i duty)).1.ch i).compareAct = (dev.ch i).compareAct := by
    rw [hcommit, commitLoop_compareAct, Device.ch_enableCh_compareAct]
  obtain ⟨-, -, -, -, hcounter, -⟩ := commitLoop_registers false (dev.enableCh i duty)
  obtain ⟨hcompare, hcfg, hregs⟩ := commitDevice_enableCh_same s.plat duty hi
  refine ⟨_, _, exec_enableDutyCycle_of_live duty hd hv hch hi, rfl, ?_, commit_setDev_slot false hd _, ?_, ?_, ?_, ?_⟩
  · have hout := commit_setDev_outputs false hd (dev.enableCh i duty)
    rw [hcommit] at hout
    exact hout.trans (List.append_nil _)
  · rw [hcommit]
    exact hcounter
  · rw [hcfg, Channel.cfg, hs, ← Config.sentinel, ChCfg.ofWord_sentinel]
    rfl
  · rw [hactive, hconf] at hregs
    simpa only [Bool.or_false, Bool.false_eq_true, if_false] using hregs
  · rw [hcompare, dutyToCompare_toNat]

/-! ### DISABLE -/

/-- The slot before the commit of DISABLE: channel `i` cleared (R140, R141). -/
def Device.clearCh (dev : Device) (i : ChIdx) : Device := dev.setCh i (dev.ch i).clear

section ClearCh

variable {dev : Device} (i : ChIdx)

theorem Device.ch_clearCh_same : (dev.clearCh i).ch i = (dev.ch i).clear := Device.ch_setCh_same _ _ _

variable {i} in
theorem Device.ch_clearCh_ne {j : ChIdx} (h : j ≠ i) : (dev.clearCh i).ch j = dev.ch j := Device.ch_setCh_ne _ h _

/-- Between atomic steps no record of the slot has its `update` flag set: `SENTINEL` has none. -/
theorem Device.clearCh_settled (hu : ∀ j : ChIdx, (dev.ch j).cfg.update = false) (j : ChIdx) :
    ((dev.clearCh i).ch j).cfg.update = false := by
  obtain rfl | hj := eq_or_ne j i
  · rw [Device.ch_clearCh_same]
    exact (Channel.cfg_of_sentinel rfl).2.1
  · rw [Device.ch_clearCh_ne hj]
    exact hu j

/-- Between atomic steps the commit of DISABLE writes `COUNTER_EN` at most, and is no cold start (R140,
spec/41_commit_engine.md R96(e)). -/
theorem commitDevice_clearCh (p : Platform) (hu : ∀ j : ChIdx, (dev.ch j).cfg.update = false) :
    commitDevice p false (dev.clearCh i) =
      ({ dev.clearCh i with counterEn := (commitDevice p false (dev.clearCh i)).1.counterEn }, false) := by
  obtain h | h := commitDevice_settled p (Device.clearCh_settled i hu) <;> rw [h]

/-- Between atomic steps the commit of DISABLE writes no channel. -/
theorem commitDevice_clearCh_ch (p : Platform) (hu : ∀ j : ChIdx, (dev.ch j).cfg.update = false) (j : ChIdx) :
    (commitDevice p false (dev.clearCh i)).1.ch j = (dev.clearCh i).ch j :=
  congrArg (fun r => r.1.ch j) (commitDevice_clearCh i p hu)

/-- The counter stops with the last record (R140, spec/41_commit_engine.md R95). -/
theorem commitDevice_clearCh_stops (p : Platform)
    (hlast : ∀ j : ChIdx, j.val < dev.nCh → j ≠ i → (dev.ch j).chcfg = Config.sentinel) :
    (commitDevice p false (dev.clearCh i)).1.counterEn = false := by
  by_contra hrun
  obtain ⟨j, hj, hne⟩ := commitDevice_counter p false (dev.clearCh i) (Bool.eq_true_of_not_eq_false hrun)
  obtain rfl | hji := eq_or_ne j i
  · rw [Device.ch_clearCh_same] at hne
    exact hne rfl
  · rw [Device.ch_clearCh_ne hji] at hne
    exact hne (hlast j hj hji)

/-- Beside a counted record DISABLE leaves the counter alone (R140, spec/41_commit_engine.md R95). -/
theorem commitDevice_clearCh_beside {p : Platform} (hu : ∀ j : ChIdx, (dev.ch j).cfg.update = false) {j : ChIdx}
    (hj : j.val < dev.nCh) (hji : j ≠ i) (hc : countsRecord p.countRule (dev.ch j) = true) :
    commitDevice p false (dev.clearCh i) = (dev.clearCh i, false) := by
  rw [← Device.ch_clearCh_ne hji] at hc
  exact commitDevice_settled_of_counted (dev := dev.clearCh i) (Device.clearCh_settled i hu) hj hc

end ClearCh

section Disable

variable {s : State} {d ch : Byte} {dev : Device} {i : ChIdx} (hd : s.dev? d.toNat = some dev)
include hd

/-- DISABLE_CH answers what the release of the pin did (R140). -/
theorem disableChannel_answer : (disableChannel d.toNat i s).1 = (unassignPin (dev.ch i).cfg.pin s).1 := by
  rw [disableChannel_eq i hd]

/-- DISABLE_CH calls the pin-mux only to release the pin; between atomic steps its commit adds no port event (R140). -/
theorem disableChannel_calls (hu : ∀ j : ChIdx, (dev.ch j).cfg.update = false) {calls : List Output} {a : PinAnswer}
    (hc : PinCalls s (unassignPin (dev.ch i).cfg.pin s) calls a) :
    (disableChannel d.toNat i s).2.outputs = s.outputs ++ calls ∧
      s.AnswersUsed (disableChannel d.toNat i s).2 calls.length := by
  have hwarm : (commitDevice s.plat false (dev.setCh i (dev.ch i).clear)).2 = false :=
    congrArg Prod.snd (commitDevice_clearCh i s.plat hu)
  constructor
  · rw [disableChannel_outputs i hd, hwarm, ← (unassignPin_events _ _).1, hc.outputs]
    exact List.append_nil _
  · rw [disableChannel_eq i hd]
    dsimp only
    rw [commit_frame]
    exact hc.used

/-- The release decides the code, the port events and the answers used (R139, R140). -/
theorem exec_disable_calls (hv : dev.valid = true) (hch : i.val = ch.toNat) (hi : i.val < dev.nCh)
    (hu : ∀ j : ChIdx, (dev.ch j).cfg.update = false) :
    ∃ t, exec (.disable d ch) s = .next t ∧
      t.dev? d.toNat = some (commitDevice s.plat false (dev.clearCh i)).1 ∧
      ∀ calls a, PinCalls s (unassignPin (dev.ch i).cfg.pin s) calls a →
        t.outputs = s.outputs ++ calls ∧ s.AnswersUsed t calls.length ∧ t.result = (disableCode a).word := by
  have hexec : exec (.disable d ch) s =
      finish (disableCode (unassignPin (dev.ch i).cfg.pin s).1) (disableChannel d.toNat i s).2 := by
    rw [exec_disable, onChannel_of_live hd hv hch hi, disableChannel_answer hd]
  refine ⟨_, hexec, disableChannel_dev?_same i hd, fun calls a hc => ?_⟩
  obtain ⟨hout, hused⟩ := disableChannel_calls hd hu hc
  rw [hc.answer]
  exact ⟨hout, hused, rfl⟩

end Disable

/-- Settles O31: the release decides the code, and the commit of the cleared channel the counter. -/
theorem disableCompletes : Obligations.DisableCompletes := by
  intro s d ch dev i hd hv hch hi hu
  obtain ⟨t, hexec, hslot, ht⟩ := exec_disable_calls hd hv hch hi hu
  refine ⟨t, _, hexec, fun hp => ?_, fun hp => ?_, hslot, ?_, fun j hj => ?_, ?_,
    commitDevice_clearCh_stops i s.plat, fun hrule ⟨j, hj, hji, hne⟩ => ?_⟩
  · have hcalls : PinCalls s (unassignPin (dev.ch i).cfg.pin s) [] .ok := unassignPin_noPin hp s ▸ .none s
    obtain ⟨hout, hused, hcode⟩ := ht _ _ hcalls
    exact ⟨hout.trans (List.append_nil _), hused, hcode⟩
  · obtain ⟨hout, hused, hcode⟩ := ht _ _ (pinCalls_unassignPin hp)
    refine ⟨hout, hused, fun ha => ?_, fun ha => ?_⟩ <;> rw [hcode, ha] <;> rfl
  · rw [commitDevice_clearCh_ch i s.plat hu, Device.ch_clearCh_same]
    rfl
  · rw [commitDevice_clearCh_ch i s.plat hu, Device.ch_clearCh_ne hj]
  · rw [commitDevice_clearCh i s.plat hu]
    rfl
  · have hc : countsRecord s.plat.countRule (dev.ch j) = true := hrule ▸ Channel.counted_nonDisabled_iff.mpr hne
    rw [commitDevice_clearCh_beside i hu hj hji hc]
    rfl

/-- Settles O32: the disabled record has no pin, so no answer is used. -/
theorem disableIsIdempotent : Obligations.DisableIsIdempotent := by
  intro s d ch dev i hd hv hch hi hu hs
  have hpin : (dev.ch i).cfg.pin = 0xFF := by
    rw [Channel.cfg, hs, ← Config.sentinel, ChCfg.ofWord_sentinel]
    rfl
  obtain ⟨t, dev', hexec, hnone, -, hslot, hself, hothers, -⟩ := disableCompletes s d ch dev i hd hv hch hi hu
  obtain ⟨hout, ⟨hanswers, hdraws⟩, hcode⟩ := hnone hpin
  refine ⟨t, dev', hexec, hcode, hout, hanswers, ?_, hslot, ?_, ?_, hothers⟩
  · rw [hdraws, Nat.zero_sub, Nat.add_zero]
  · rw [hself]
  · rw [hself]

/-! ### The frame of the channel commands -/

/-- Every channel but `ch` is as before but for its active compare value, which is as before or its own staged one
(spec/20_memory.md R47). -/
def Device.SiblingsKept (dev : Device) (ch : Byte) (dev' : Device) : Prop :=
  ∀ j : ChIdx, j.val ≠ ch.toNat →
    dev'.ch j = { dev.ch j with compareAct := (dev'.ch j).compareAct } ∧
    ((dev'.ch j).compareAct = (dev.ch j).compareAct ∨ (dev'.ch j).compareAct = (dev.ch j).compare)

section Siblings

variable {dev : Device} {ch : Byte}

theorem Device.SiblingsKept.refl (dev : Device) (ch : Byte) : dev.SiblingsKept ch dev := fun _ _ => ⟨rfl, .inl rfl⟩

variable {k : ChIdx} (hk : k.val = ch.toNat) (c : Channel)
include hk

theorem Device.SiblingsKept.setCh : dev.SiblingsKept ch (dev.setCh k c) := by
  intro j hj
  have hjk : j ≠ k := by
    rintro rfl
    exact hj hk
  rw [Device.ch_setCh_ne _ hjk]
  exact ⟨rfl, .inl rfl⟩

/-- A commit between atomic steps, one channel just written, selects that channel at most; a cold start latches all of
them (spec/41_commit_engine.md R91, R95). -/
theorem Device.SiblingsKept.commit_setCh (p : Platform) (hu : ∀ j : ChIdx, (dev.ch j).cfg.update = false) :
    dev.SiblingsKept ch (commitDevice p false (dev.setCh k c)).1 := by
  intro j hj
  have hjk : j ≠ k := by
    rintro rfl
    exact hj hk
  have hsame : (dev.setCh k c).ch j = dev.ch j := Device.ch_setCh_ne _ hjk _
  have hnot : ((dev.setCh k c).ch j).selected false = false := by
    rw [hsame]
    exact Channel.selected_false_of_settled (hu j)
  have hregs := commitDevice_ch_of_not_selected p false hnot
  have hactive := commitDevice_active p false (dev.setCh k c)
  rw [hsame] at hregs
  refine ⟨hregs, ?_⟩
  obtain hwaits | ⟨-, hre⟩ := hactive
  · exact .inl ((hwaits.compare j).trans (congrArg Channel.compareAct hsame))
  · refine .inr ((hre.compare j).trans ?_)
    rw [hregs]

end Siblings

section Frame

variable {s t : State} {d ch : Byte} {dev : Device} (hd : s.dev? d.toNat = some dev)
include hd

theorem exec_configureChannel_frame {pin : Byte} {af : AltFn} {inv : Bool} {n ccb cdata scb sdata : Word}
    (e : exec (.configureChannel d ch pin af inv n ccb cdata scb sdata) s = .next t) :
    ∃ dev', t.dev? d.toNat = some dev' ∧ dev.SiblingsKept ch dev' ∧ ∀ j : ChIdx, j.val = ch.toNat →
      (dev'.ch j).compare = (dev.ch j).compare ∧ (dev'.ch j).compareAct = (dev.ch j).compareAct ∧
      (dev'.ch j).ocPwm = (dev.ch j).ocPwm ∧ (dev'.ch j).ocInvert = (dev.ch j).ocInvert ∧
      (dev'.ch j).ocPreload = (dev.ch j).ocPreload ∧ (dev'.ch j).chOutEn = (dev.ch j).chOutEn := by
  obtain rfl | ⟨dev₀, hd₀, -, rfl | ⟨k, hk, -, ⟨-, rfl⟩ | ⟨-, rfl⟩⟩⟩ := execConfigureChannel_next e
  · exact ⟨dev, hd, .refl dev ch, fun _ _ => ⟨rfl, rfl, rfl, rfl, rfl, rfl⟩⟩
  · exact ⟨dev, hd, .refl dev ch, fun _ _ => ⟨rfl, rfl, rfl, rfl, rfl, rfl⟩⟩
  all_goals
    have hslot := ((movePin_spec (dev₀.ch k) pin af s).1.dev?_eq d.toNat).trans hd
  · exact ⟨dev, hslot, .refl dev ch, fun _ _ => ⟨rfl, rfl, rfl, rfl, rfl, rfl⟩⟩
  · obtain rfl := Option.some.inj (hd.symm.trans hd₀)
    refine ⟨_, State.dev?_setDev_same hslot _, .setCh hk _, fun j hj => ?_⟩
    obtain rfl : j = k := Fin.ext (hj.trans hk.symm)
    rw [Device.ch_setCh_same]
    exact ⟨rfl, rfl, rfl, rfl, rfl, rfl⟩

variable (hu : ∀ j : ChIdx, (dev.ch j).cfg.update = false)
include hu

theorem exec_enableDutyCycle_frame {duty : Half} (e : exec (.enableDutyCycle d ch duty) s = .next t) :
    ∃ dev', t.dev? d.toNat = some dev' ∧ dev.SiblingsKept ch dev' ∧ ∀ j : ChIdx, j.val = ch.toNat →
      (dev'.ch j).cycleCount = (dev.ch j).cycleCount ∧ (dev'.ch j).cycle = (dev.ch j).cycle ∧
      (dev'.ch j).cycleCb = (dev.ch j).cycleCb ∧ (dev'.ch j).cycleData = (dev.ch j).cycleData ∧
      (dev'.ch j).seqCb = (dev.ch j).seqCb ∧ (dev'.ch j).seqData = (dev.ch j).seqData := by
  obtain rfl | ⟨dev₀, hd₀, -, rfl | ⟨k, hk, hlt, rfl⟩⟩ := execEnableDutyCycle_next e
  · exact ⟨dev, hd, .refl dev ch, fun _ _ => ⟨rfl, rfl, rfl, rfl, rfl, rfl⟩⟩
  · exact ⟨dev, hd, .refl dev ch, fun _ _ => ⟨rfl, rfl, rfl, rfl, rfl, rfl⟩⟩
  · obtain rfl := Option.some.inj (hd.symm.trans hd₀)
    refine ⟨_, commit_setDev_slot false hd _, .commit_setCh hk _ s.plat hu, fun j hj => ?_⟩
    obtain rfl : j = k := Fin.ext (hj.trans hk.symm)
    obtain ⟨-, -, hregs⟩ := commitDevice_enableCh_same s.plat duty (hk ▸ hlt)
    rw [Device.enableCh] at hregs
    rw [hregs]
    exact ⟨rfl, rfl, rfl, rfl, rfl, rfl⟩

theorem exec_disable_frame (e : exec (.disable d ch) s = .next t) :
    ∃ dev', t.dev? d.toNat = some dev' ∧ dev.SiblingsKept ch dev' ∧ ∀ j : ChIdx, j.val = ch.toNat →
      dev'.ch j = { dev.ch j with chcfg := (dev'.ch j).chcfg, chOutEn := (dev'.ch j).chOutEn } := by
  obtain rfl | ⟨dev₀, hd₀, -, rfl | ⟨k, hk, -, rfl⟩⟩ := execDisable_next e
  · exact ⟨dev, hd, .refl dev ch, fun _ _ => rfl⟩
  · exact ⟨dev, hd, .refl dev ch, fun _ _ => rfl⟩
  · refine ⟨_, disableChannel_dev?_same k hd, .commit_setCh hk _ s.plat hu, fun j hj => ?_⟩
    obtain rfl : j = k := Fin.ext (hj.trans hk.symm)
    rw [← Device.clearCh, commitDevice_clearCh_ch j s.plat hu, Device.ch_clearCh_same]
    rfl

end Frame

/-- Settles O39: each command writes its own channel and, by a cold start, the active compare values of the others. -/
theorem channelCommandFrame : Obligations.ChannelCommandFrame := by
  intro s t d ch dev i hi e hd hu
  obtain rfl | ⟨duty, rfl⟩ | ⟨pin, af, inv, n, ccb, cdata, scb, sdata, rfl⟩ := hi
  · obtain ⟨dev', hslot, hsiblings, hown⟩ := exec_disable_frame hd hu e
    exact ⟨dev', hslot, hsiblings, fun j hj => ⟨nofun, fun _ => hown j hj, fun _ hne => absurd rfl hne⟩⟩
  · obtain ⟨dev', hslot, hsiblings, hown⟩ := exec_enableDutyCycle_frame hd hu e
    exact ⟨dev', hslot, hsiblings, fun j hj => ⟨fun _ => hown j hj, nofun, fun hne => absurd rfl (hne duty)⟩⟩
  · obtain ⟨dev', hslot, hsiblings, hown⟩ := exec_configureChannel_frame hd e
    exact ⟨dev', hslot, hsiblings, fun j hj => ⟨nofun, nofun, fun _ _ => hown j hj⟩⟩

end Sys2Proof.Machine
end

section
/-! PROOFS. The results of the commands (spec/60_exceptions.md R151 to R153): what a command whose operands fail a check
answers, and that a command that answers an error leaves the block. -/

namespace Sys2Proof.Machine

/-! ### Where a check fails -/

theorem liveDevice_eq_none {s : State} {d : Byte} :
    liveDevice s d = none ↔ ∀ dev, s.dev? d.toNat = some dev → dev.valid = false := by
  simp [Option.eq_none_iff_forall_ne_some, liveDevice_eq_some]

section FailedCheck

variable {d ch : Byte} {s : State}

theorem onDevice_of_dead (hdead : ∀ dev, s.dev? d.toNat = some dev → dev.valid = false)
    (run : Device → Host.Outcome State Fault Refusal) :
    onDevice d s run = .next { s with result := ResultCode.noDevice.word } := by
  simp only [onDevice, liveDevice_eq_none.mpr hdead, finish_eq]

theorem onChannel_of_outOfRange {dev : Device} (hd : s.dev? d.toNat = some dev) (hv : dev.valid = true)
    (hch : dev.nCh ≤ ch.toNat) (run : Device → ChIdx → Host.Outcome State Fault Refusal) :
    onChannel d ch s run = .next { s with result := ResultCode.channel.word } := by
  simp only [onChannel, onDevice, onIndex, liveDevice_eq_some.mpr ⟨hd, hv⟩, channelIndex_eq_none.mpr hch, finish_eq]

end FailedCheck

/-- Settles O35: every command but INIT begins with the device check. -/
theorem deadSlotAnswersNoDevice : Obligations.DeadSlotAnswersNoDevice := by
  intro i s hinit hdead
  cases i with
  | init d h => exact absurd rfl (hinit d h)
  | setFrequency | configureChannel | enableDutyCycle | disable | getClockFrequency | getPeriodTicks
  | getResolutionBits => exact onDevice_of_dead hdead _

/-- Settles O36: the three commands make the channel check before they read another operand. -/
theorem channelOutOfRangeRejected : Obligations.ChannelOutOfRangeRejected := by
  intro s d ch pin af inv n ccb cdata scb sdata duty dev hd hv hch
  exact ⟨onChannel_of_outOfRange hd hv hch _, onChannel_of_outOfRange hd hv hch _, onChannel_of_outOfRange hd hv hch _⟩

/-! ### A command that answers an error -/

/-- `t` is `s` but for `RESULT` and the pin-mux's answers, and the record of port events has at most grown (R151). -/
structure State.OnlyResult (s t : State) : Prop where
  outputs : s.outputs <+: t.outputs
  block : s.SameBlock { t with result := s.result }

theorem State.OnlyResult.of_code (s : State) (code : Word) : s.OnlyResult { s with result := code } :=
  ⟨List.prefix_refl _, .refl s⟩

theorem State.OnlyResult.of_sameBlock {s t : State} (h : s.SameBlock t) (ho : s.outputs <+: t.outputs) (code : Word) :
    s.OnlyResult { t with result := code } := by
  refine ⟨ho, ?_⟩
  rw [State.SameBlock] at h
  rw [h]
  rfl

/-- DISABLE_CH only adds port events (spec/44_channel_commands.md R140). -/
theorem disableChannel_outputs_prefix (d : Nat) (i : ChIdx) (s : State) :
    s.outputs <+: (disableChannel d i s).2.outputs := by
  cases hd : s.dev? d with
  | none => rw [disableChannel_none i hd]
  | some dev =>
    rw [disableChannel_outputs i hd, List.append_assoc]
    exact List.prefix_append _ _

theorem finish_ok_result {s t : State} (e : finish .ok s = .next t) : t.result = 0x00000000 := by
  rw [finish_eq_next.mp e]
  rfl

section Error

variable {s t : State} {d ch : Byte}

theorem onDevice_error {run : Device → Host.Outcome State Fault Refusal} (e : onDevice d s run = .next t)
    (hrun : ∀ dev, run dev = .next t → s.OnlyResult t) : s.OnlyResult t := by
  unfold onDevice at e
  split at e
  · exact finish_eq_next.mp e ▸ .of_code s _
  · exact hrun _ e

theorem onChannel_error {run : Device → ChIdx → Host.Outcome State Fault Refusal} (e : onChannel d ch s run = .next t)
    (hrun : ∀ dev i, run dev i = .next t → s.OnlyResult t) : s.OnlyResult t := by
  refine onDevice_error e fun dev e => ?_
  unfold onIndex at e
  split at e
  · exact finish_eq_next.mp e ▸ .of_code s _
  · exact hrun dev _ e

variable (hr : t.result ≠ 0x00000000)
include hr

theorem execInit_error {h : Word} (e : execInit d h s = .next t) : s.OnlyResult t := by
  obtain ⟨rfl, -⟩ | ⟨_, -, -, ⟨-, rfl⟩ | ⟨-, _, -, rfl⟩⟩ := execInit_next e
  · exact .of_code s _
  · exact .of_code s _
  · exact absurd rfl hr

theorem applyDivisors_error {n : Nat} {dev : Device} {r : Option DivisorPair}
    (e : applyDivisors n dev s r = .next t) : s.OnlyResult t := by
  cases r with
  | none => exact finish_eq_next.mp e ▸ .of_code s _
  | some r => exact absurd (finish_ok_result e) hr

/-- CONFIGURE_CHANNEL answers an error behind its checks only where moving the pin failed (spec/44_channel_commands.md
R134). -/
theorem applyConfigure_error {n : Nat} {dev : Device} {i : ChIdx} {c : Channel} {r : PinAnswer × State}
    (hb : s.SameBlock r.2 ∧ s.outputs <+: r.2.outputs) (e : applyConfigure n dev i c r = .next t) :
    s.OnlyResult t := by
  unfold applyConfigure at e
  split at e
  · exact finish_eq_next.mp e ▸ .of_sameBlock hb.1 hb.2 _
  · exact absurd (finish_ok_result e) hr

/-- DISABLE answers an error behind its checks only where the release of the pin failed, and has then run DISABLE_CH
(spec/44_channel_commands.md R139, R140). -/
theorem execDisable_error (e : execDisable d ch s = .next t) :
    s.OnlyResult t ∨ ∃ (dev : Device) (i : ChIdx), s.dev? d.toNat = some dev ∧ dev.valid = true ∧
      i.val = ch.toNat ∧ i.val < dev.nCh ∧
      t = { (disableChannel d.toNat i s).2 with result := ResultCode.pinAssignment.word } := by
  obtain rfl | ⟨dev, hd, hv, rfl | ⟨i, hi, hlt, rfl⟩⟩ := execDisable_next e
  · exact .inl (.of_code s _)
  · exact .inl (.of_code s _)
  · refine .inr ⟨dev, i, hd, hv, hi, hi ▸ hlt, ?_⟩
    cases ha : (disableChannel d.toNat i s).1 with
    | ok => exact absurd (by rw [ha]; rfl) hr
    | fail => rfl

/-- An error of every other command comes from a check, from SOLVE or from a failed move of the pin, before anything is
written. -/
theorem exec_error {i : Instr} (e : exec i s = .next t) (hi : ∀ d ch, i ≠ .disable d ch) : s.OnlyResult t := by
  cases i with
  | init => exact execInit_error hr e
  | setFrequency => exact onDevice_error e fun _ => applyDivisors_error hr
  | configureChannel => exact onChannel_error e fun _ _ => applyConfigure_error hr (movePin_spec _ _ _ _)
  | enableDutyCycle => exact onChannel_error e fun _ _ e => absurd (finish_ok_result e) hr
  | disable d ch => exact absurd rfl (hi d ch)
  | getClockFrequency | getPeriodTicks | getResolutionBits =>
    exact onDevice_error e fun _ e => absurd (finish_ok_result e) hr

end Error

/-- Settles O37: only DISABLE answers an error after it has written the block. -/
theorem errorsLeaveTheBlock : Obligations.ErrorsLeaveTheBlock := by
  intro i s t e hr
  by_cases hi : ∃ d ch, i = .disable d ch
  · obtain ⟨d, ch, rfl⟩ := hi
    obtain h | ⟨dev, k, hd, hv, hk, hlt, rfl⟩ := execDisable_error hr e
    · exact ⟨h.outputs, .inl h.block⟩
    · exact ⟨disableChannel_outputs_prefix d.toNat k s, .inr ⟨d, ch, dev, k, rfl, hd, hv, hk, hlt, rfl⟩⟩
  · have h := exec_error hr e fun d ch hd => hi ⟨d, ch, hd⟩
    exact ⟨h.outputs, .inl h.block⟩

end Sys2Proof.Machine
end

section
/-! PROOFS. The interrupt (spec/60_exceptions.md R157, R161, R165): when an invocation begins, that a block whose handler
waits uses up one input in each step, the spurious invocation, and the access out of turn. -/

namespace Sys2Proof.Machine

/-! ### Beginning an invocation -/

theorem irqRequest_eq_false {s : State} :
    s.irqRequest = false ↔ s.irqEn = false ∨ ∀ dev ∈ s.devices, dev.valid = false ∨ dev.pending = false := by
  simp [State.irqRequest, Device.requests, or_iff_not_imp_left]

theorem beginInvocation_taken {s : State} {level : Bool} (hs : s.hstate = .idle) (hl : level = true) :
    beginInvocation level s = .next (runSegment { s with hstate := .scan 0 }) := if_pos ⟨hs, hl⟩

theorem beginInvocation_refused {s : State} {level : Bool} (h : s.hstate ≠ .idle ∨ level = false) :
    beginInvocation level s = .refused .interruptNotTaken := by
  refine if_neg fun ⟨hs, hl⟩ => ?_
  obtain hne | hlow := h
  · exact hne hs
  · exact Bool.false_ne_true (hlow.symm.trans hl)

/-- With no input a block whose handler waits does what it does unprompted (R157, spec/70_reset_and_hazards.md R180). -/
theorem step_of_no_input {s : State} (hw : s.hstate.working = false) (hi : s.inputs = []) :
    step s = .next (unprompted s) := by
  simp [step, atomicStep, hw, hi]

/-! ### Each step uses up an input -/

theorem portAccess_inputs {a : Access} {s t : State} (e : portAccess a s = .next t) : t.inputs = s.inputs := by
  obtain ⟨_, _, rfl⟩ | ⟨_, _, _, _, _, _, rfl⟩ | ⟨_, rfl⟩ | ⟨_, _, -, e⟩ := portAccess_next e
  · rfl
  · rfl
  · rfl
  · rw [(exec_effect e).frame]

theorem runSegment_inputs (s : State) : (runSegment s).inputs = s.inputs := by rw [(runSegment_writes s).1]

/-- A step of a block whose handler waits uses up one input, where there is one (spec/20_memory.md R51). -/
theorem step_inputs {s t : State} (hw : s.hstate.working = false) (e : step s = .next t) :
    t.inputs = s.inputs.tail := by
  obtain ⟨hw', -⟩ | ⟨-, hi, rfl⟩ | ⟨who, a, rest, -, hi, -, e⟩ | ⟨d, rest, dev, -, hi, -, -, -, rfl⟩ |
    ⟨rest, hi, -, -, rfl⟩ | ⟨d, j, k, rest, hi, -, rfl⟩ := step_next e
  · exact absurd hw' (by simp [hw])
  · rw [hi]; rfl
  · rw [portAccess_inputs e, hi]; rfl
  · rw [hi]; rfl
  · rw [runSegment_inputs]
    obtain hi | hi | ⟨hi, rfl⟩ := hi <;> rw [hi] <;> rfl
  · rw [runSegment_inputs, hi]; rfl

theorem core_run_succ_next {s u : State} {n : Nat} (h : Sys2Proof.core.run (n + 1) s = .next u) :
    ∃ t, step s = .next t ∧ Sys2Proof.core.run n t = .next u := by
  cases hstep : step s with
  | next t => exact ⟨t, rfl, (core_run_succ hstep n).symm.trans h⟩
  | fault r | refused r =>
    have hcore : Sys2Proof.core.step s = _ := hstep
    simp only [Host.Core.run, hcore, reduceCtorEq] at h

/-- A run as long as the inputs leaves none (R157, log 23). -/
theorem run_inputs (l : List Input) {s t : State} (hi : s.inputs = l) (hw : s.hstate.working = false)
    (e : Sys2Proof.core.run l.length s = .next t) : t.inputs = [] := by
  induction l generalizing s with
  | nil =>
    cases e
    exact hi
  | cons ev l ih =>
    obtain ⟨u, hstep, hrun⟩ := core_run_succ_next e
    exact ih (by rw [step_inputs hw hstep, hi]; rfl) (segmentsEnd.2 s u hstep) hrun

/-- Settles O49: the request level decides, and no input stays for ever. -/
theorem interruptEntry : Obligations.InterruptEntry := by
  refine ⟨fun s rest hw hi => ?_, fun s hi hs hirq hdev => ?_, fun s t hw => run_inputs s.inputs rfl hw⟩
  · have hstep : step s = beginInvocation s.irqRequest { s with inputs := rest } := step_of_input hw hi
    rw [hstep]
    refine ⟨fun hs hirq hdev => ?_, fun hno => beginInvocation_refused (hno.imp_right irqRequest_eq_false.mpr)⟩
    exact beginInvocation_taken (s := { s with inputs := rest }) hs (irqRequest_eq_true.mpr ⟨hirq, hdev⟩)
  · have hw : s.hstate.working = false := by rw [hs]; rfl
    rw [step_of_no_input hw hi]
    exact congrArg _ (if_pos ⟨hs, irqRequest_eq_true.mpr ⟨hirq, hdev⟩⟩)

/-! ### A spurious invocation -/

/-- Where no slot requests service the scan passes over all of them and returns (R161). -/
theorem runSegment_scan_quiet {s : State} (hq : ∀ dev ∈ s.devices, dev.valid = false ∨ dev.pending = false) (d : Nat) :
    runSegment (s.goto (.scan d)) = s.goto .idle := by
  rw [runSegment_of_working rfl]
  cases hd : s.dev? d with
  | none =>
    rw [handlerMicro_return (s := s.goto (.scan d)) rfl hd]
    exact runHandler_of_waiting _ rfl
  | some dev =>
    have hlt := State.dev?_lt hd
    have hskip := Device.requests_eq_false (hq dev (State.mem_of_dev? hd))
    rw [handlerMicro_skip (s := s.goto (.scan d)) rfl hd hskip]
    exact runSegment_scan_quiet hq (d + 1)
termination_by s.nDev - d

/-- Settles O52: the invocation begins, for which the vector is enough, and its scan serves no slot. -/
theorem spuriousInvocationWritesNothing : Obligations.SpuriousInvocationWritesNothing := by
  intro s rest hs hirq hq hi
  have hw : s.hstate.working = false := by rw [hs]; rfl
  have hstep : step s = beginInvocation s.irqEn { s with inputs := rest } := step_of_input hw hi
  rw [hstep, beginInvocation_taken (s := { s with inputs := rest }) hs hirq]
  refine congrArg _ ((runSegment_scan_quiet (s := { s with inputs := rest }) hq 0).trans ?_)
  exact State.goto_self (s := { s with inputs := rest }) hs

/-! ### An access out of turn -/

/-- Settles O11: the input is the access, which the position of the handler refuses. -/
theorem outOfTurnAccessHasNoStep : Obligations.OutOfTurnAccessHasNoStep := by
  intro s who a rest hw hturn hi
  rw [step_of_input hw hi]
  exact if_neg hturn

end Sys2Proof.Machine
end

section
/-! PROOFS. Reset and hazards (spec/70_reset_and_hazards.md R180, R181): that a step keeps what INIT has set, by the kinds
of step; the step without an input; the block after power-on. -/

namespace Sys2Proof.Machine

/-! ### What INIT has set is permanent -/

/-- `dev'` is valid with the handle, the channel count and the clock of `dev` (spec/10_state.md R11). -/
def Device.KeepsIdentity (dev dev' : Device) : Prop :=
  dev'.valid = true ∧ dev'.handle = dev.handle ∧ dev'.chCount = dev.chCount ∧ dev'.timerClock = dev.timerClock

/-- From `s` to `t` the platform is the same, `IRQ_EN` stays set and every valid slot keeps its identity
(spec/10_state.md R11, R32). -/
structure State.KeepsIdentity (s t : State) : Prop where
  plat : t.plat = s.plat
  nDev : t.nDev = s.nDev
  vector : s.irqEn = true → t.irqEn = true
  slots : ∀ d dev, s.dev? d = some dev → dev.valid = true → ∃ dev', t.dev? d = some dev' ∧ dev.KeepsIdentity dev'

theorem Device.KeepsIdentity.trans {a b c : Device} (h : a.KeepsIdentity b) (k : b.KeepsIdentity c) :
    a.KeepsIdentity c := by
  obtain ⟨-, hh, hc, ht⟩ := h
  obtain ⟨kv, kh, kc, kt⟩ := k
  exact ⟨kv, kh.trans hh, kc.trans hc, kt.trans ht⟩

/-- INIT writes only a slot that is not valid (spec/44_channel_commands.md R131). -/
theorem SlotWrite.ne_init_of_valid {p : Platform} {dev dev' : Device} {i : Instr} (h : SlotWrite p dev i dev')
    (hv : dev.valid = true) (d : Byte) (w : Word) : i ≠ .init d w := by
  rintro rfl
  cases h with
  | init m hinv => simp [hinv] at hv

theorem SlotWrite.keepsIdentity {p : Platform} {dev dev' : Device} {i : Instr} (h : SlotWrite p dev i dev')
    (hv : dev.valid = true) : dev.KeepsIdentity dev' := by
  obtain ⟨hvalid, hrest⟩ := h.identity (h.ne_init_of_valid hv)
  exact ⟨hvalid.trans hv, hrest⟩

section KeepsIdentity

variable {s t u : State}

theorem State.KeepsIdentity.trans (h : s.KeepsIdentity t) (k : t.KeepsIdentity u) : s.KeepsIdentity u := by
  refine ⟨k.plat.trans h.plat, k.nDev.trans h.nDev, fun hs => k.vector (h.vector hs), fun d dev hd hv => ?_⟩
  obtain ⟨dev₁, hd₁, hid⟩ := h.slots d dev hd hv
  obtain ⟨dev₂, hd₂, kid⟩ := k.slots d dev₁ hd₁ hid.1
  exact ⟨dev₂, hd₂, hid.trans kid⟩

theorem State.KeepsIdentity.of_devices_eq (hp : t.plat = s.plat) (hi : s.irqEn = true → t.irqEn = true)
    (hd : t.devices = s.devices) : s.KeepsIdentity t :=
  ⟨hp, congrArg List.length hd, hi, fun d dev hs hv => ⟨dev, (congrArg (·[d]?) hd).trans hs, hv, rfl, rfl, rfl⟩⟩

theorem State.SlotWritten.keepsIdentity {d : Nat} {dev dev' : Device} (hw : s.SlotWritten t d dev dev')
    (hp : t.plat = s.plat) (hi : s.irqEn = true → t.irqEn = true)
    (hid : dev.valid = true → dev.KeepsIdentity dev') : s.KeepsIdentity t := by
  refine ⟨hp, hw.nDev_eq, hi, fun e x hx hv => ?_⟩
  obtain rfl | hne := eq_or_ne e d
  · obtain rfl := Option.some.inj (hw.old.symm.trans hx)
    exact ⟨dev', hw.dev?_same, hid hv⟩
  · exact ⟨x, (hw.dev?_ne hne).trans hx, hv, rfl, rfl, rfl⟩

theorem exec_keepsIdentity {i : Instr} (e : exec i s = .next t) : s.KeepsIdentity t := by
  have heff := exec_effect e
  have hp : t.plat = s.plat := by rw [heff.frame]
  obtain ⟨hd, -⟩ | ⟨dev, dev', hs, hw, -⟩ := heff.slots
  · exact .of_devices_eq hp heff.irqEn_of_irqEn hd
  · exact hs.keepsIdentity hp heff.irqEn_of_irqEn hw.keepsIdentity

theorem portAccess_keepsIdentity {a : Access} (e : portAccess a s = .next t) : s.KeepsIdentity t := by
  obtain ⟨_, _, rfl⟩ | ⟨_, _, _, _, _, _, rfl⟩ | ⟨_, rfl⟩ | ⟨v, i, -, e⟩ := portAccess_next e
  · exact .of_devices_eq rfl id rfl
  · exact .of_devices_eq rfl id rfl
  · exact .of_devices_eq rfl id rfl
  · have hcmd : s.KeepsIdentity { s with cmd := v } := .of_devices_eq rfl id rfl
    exact hcmd.trans (exec_keepsIdentity e)

theorem runSegment_keepsIdentity (s : State) : s.KeepsIdentity (runSegment s) := by
  obtain ⟨hw, hn⟩ := runSegment_writes s
  refine ⟨by rw [hw], hn, fun hs => by rw [hw, hs], fun d dev hd hv => ?_⟩
  obtain ⟨dev', hd', hf⟩ := runSegment_handlerFrame hd
  exact ⟨dev', hd', hf.valid.trans hv, hf.handle, hf.chCount, hf.timerClock⟩

end KeepsIdentity

/-- Settles O42: each kind of step keeps the identity of the slots; what remains is to take the input and to move the
handler, which write no slot. -/
theorem slotIdentityIsPermanent : Obligations.SlotIdentityIsPermanent := by
  intro s t e
  have hmove (rest : List Input) (h : HState) : s.KeepsIdentity { s with inputs := rest, hstate := h } :=
    .of_devices_eq rfl id rfl
  have hkeep : s.KeepsIdentity t := by
    obtain ⟨-, rfl⟩ | ⟨-, -, rfl⟩ | ⟨who, a, rest, -, -, -, e⟩ | ⟨d, rest, dev, -, -, hd, hv, -, rfl⟩ |
      ⟨rest, -, -, -, rfl⟩ | ⟨d, j, k, rest, -, -, rfl⟩ := step_next e
    · exact runSegment_keepsIdentity s
    · exact .of_devices_eq rfl id rfl
    · exact (hmove rest s.hstate).trans (portAccess_keepsIdentity e)
    · exact State.SlotWritten.keepsIdentity ⟨hd, rfl⟩ rfl id fun _ => ⟨hv, rfl, rfl, rfl⟩
    · exact (hmove rest _).trans (runSegment_keepsIdentity _)
    · exact (hmove rest _).trans (runSegment_keepsIdentity _)
  exact ⟨hkeep.plat, hkeep.nDev, hkeep.vector, hkeep.slots⟩

/-! ### Without an input -/

/-- Settles O10: unprompted the block only begins an invocation, which needs the foreground and the request. -/
theorem noInputNothingHappens : Obligations.NoInputNothingHappens := by
  intro s hw hi hquiet
  rw [step_of_no_input hw hi]
  obtain ⟨hidle, hreq, -⟩ | ⟨-, hu⟩ := unprompted_cases s
  · have hlow : s.irqRequest = false := irqRequest_eq_false.mpr (hquiet.resolve_left (not_not_intro hidle))
    exact absurd hreq (by simp [hlow])
  · rw [hu]

/-! ### After power-on -/

/-- After power-on the vector is off, so no invocation begins at either level an input gives (R180). -/
theorem State.PoweredOn.no_invocation {s : State} (h : s.PoweredOn) :
    beginInvocation s.irqRequest s = .refused .interruptNotTaken ∧
      beginInvocation s.irqEn s = .refused .interruptNotTaken :=
  ⟨beginInvocation_refused (.inr (irqRequest_eq_false.mpr (.inl h.masked))),
    beginInvocation_refused (.inr h.masked)⟩

/-- Settles O59: no slot is valid, and the vector is off. -/
theorem powerOnAcceptsOnlyInit : Obligations.PowerOnAcceptsOnlyInit := by
  intro s h
  refine ⟨fun i hinit => ?_, fun rest hi => ?_⟩
  · exact deadSlotAnswersNoDevice i s hinit fun dev hd => h.invalid dev (State.mem_of_dev? hd)
  · have hw : s.hstate.working = false := by rw [h.idle]; rfl
    have hrest : State.PoweredOn { s with inputs := rest } := ⟨h.slots, h.idle, h.masked, h.invalid⟩
    obtain ⟨hinterrupt, hspurious⟩ := hrest.no_invocation
    obtain hi | hi := hi <;> rw [step_of_input hw hi]
    · exact hinterrupt
    · exact hspurious

end Sys2Proof.Machine
end
